-- ==== Sys2Proof/Word.lean ====
section
/-! DEFINITION. The words of the core: the byte, the two wider port values, and the events of R8, which are what the
decoder of this hardware reads (it fetches no instruction words: R1, R97, R98). -/

namespace Sys2Proof

/-- A byte, bit 7 the most significant (R10); the width of every register, field and stream item but three. -/
abbrev Byte := BitVec 8

/-- The value on `enc_push_val`, `VAL_W` = 16 bits, two's complement (R7, R40, R143). -/
abbrev PushValue := BitVec 16

/-- A count of ticks, `TMR_W` = 32 bits, unsigned (R7, R35, R36). -/
abbrev Ticks := BitVec 32

/-- The host's commands and samples, with the ports that carry their operands (R40, R98, R229). -/
inductive HostCmd where
  /-- strobe `crc0_clr` -/
  | crcClr
  /-- transfer on `crc0_byte` -/
  | crcByte (b : Byte)
  /-- sample of `crc0_acc` -/
  | crcRead
  /-- strobe `enc_clear` -/
  | encClear
  /-- offer on `enc_push_val` -/
  | encPush (v : PushValue)
  /-- strobe `enc_start` -/
  | encStart
  /-- strobe `dec_start` -/
  | decStart
  /-- strobe `dec_tmo_wr` with `dec_tmo_val` -/
  | decSetTmo (t : Ticks)
  /-- sample of `dec_status`, `dec_cnt`, `dec_len`, `dec_chk`, `dec_crc_out` -/
  | decResult
  /-- drive of `rxb_addr` and sample of `rxb_data` -/
  | decRdbuf (i : Byte)
  deriving DecidableEq, Repr

/-- What LINK_RX answers one single-byte read with (R192, R223): `byte b`, or the `T` of an `rx:` script (R105),
the TimeoutSignal that R195 lets the environment give at will. -/
inductive LinkItem where
  | byte (b : Byte)
  | timeout
  deriving DecidableEq, Repr

/-- The events of R8: "a host command, a transfer of one byte on a Link port, a `tick`, a reset", and the
TimeoutSignal with which LINK_RX may end a read (R195, R223). -/
inductive Event where
  | host (c : HostCmd)
  /-- LINK_TX is ready for a byte (`tx_ready = 1`) -/
  | txTransfer
  /-- LINK_RX offers the byte `b` (`rx_valid = 1`, `rx_data = b`) -/
  | rxTransfer (b : Byte)
  /-- LINK_RX answers the read in progress with a TimeoutSignal -/
  | timeoutSignal
  | tick
  | rst
  deriving DecidableEq, Repr

/-- A move of one agent outside the core (R9): which of them acts next, and the host's command where it is the host.
What `linkRx` brings is the head of the RX stream. -/
inductive Move where
  | host (c : HostCmd)
  | linkTx
  | linkRx
  | ticker
  | reset
  deriving DecidableEq, Repr

end Sys2Proof
end

