-- ==== Sys2Proof/Config.lean ====
section
/-! DEFINITION. What is fixed for the machine: the constants the source fixes (R6), the parameters at the values this
spec takes (R7), the names of the sequencer states and statuses (R22, R28, R29), and the free values. -/

namespace Sys2Proof

namespace Config

/-- `POLY`, the generator constant (R6). -/
@[simp] abbrev poly : Byte := 0x07#8
/-- `CRC_INIT` (R6). -/
@[simp] abbrev crcInit : Byte := 0x00#8
/-- `START`, the start marker (R6, R90). -/
@[simp] abbrev startMarker : Byte := 0xAA#8
/-- `END`, the end marker (R6, R90). -/
@[simp] abbrev endMarker : Byte := 0x55#8
/-- `LEN_MIN` (R6). -/
@[simp] abbrev lenMin : Nat := 1
/-- `LEN_MAX` (R6). -/
@[simp] abbrev lenMax : Nat := 200
/-- `TXBUF_DEPTH` (R7, R26). -/
@[simp] abbrev txbufDepth : Nat := 255
/-- `RXBUF_DEPTH` (R7, R37). -/
@[simp] abbrev rxbufDepth : Nat := 200

/-- The byte an unwritten cell of `TXBUF` gives, "`any value`" (U10, R26): the `n`-th such byte drawn.
A free value (log 7); only a state no run reaches draws one (R44 e, R148). -/
opaque freeTxByte : Nat → Byte

/-- The byte an unwritten cell of `RXBUF` gives (U10, R37), the `n`-th such byte drawn.
A free value (log 7); only a state no run reaches draws one (R45, R190). -/
opaque freeRxByte : Nat → Byte

end Config

/-- `enc_state` (R22). The reserved codes 6 and 7 are no members (U9, log 20). -/
inductive EncState where
  | idle
  | emitStart
  | emitLen
  | emitPayload
  | emitChecksum
  | emitEnd
  deriving DecidableEq, Repr

/-- `dec_state` (R28). The reserved code 7 is no member (U9, log 20). -/
inductive DecState where
  | idle
  | seekStart
  | readLength
  | readPayload
  | readChecksum
  | readEnd
  | done
  deriving DecidableEq, Repr

/-- `dec_status` (R29): the five statuses of a DecodeOutcome and `None`, written `noOutcome` here.
The reserved codes 5 and 6 are no members (U9, log 20). `rangeError` is kept and never produced (R185, U8). -/
inductive DecStatus where
  | success
  | crcMismatch
  | rangeError
  | desync
  | timeout
  | noOutcome
  deriving DecidableEq, Repr

end Sys2Proof
end

