-- ==== Sys2Proof/Syntax.lean ====
section
/-! DEFINITION. The operations of the core: one constructor for every row of opcode_table.json (R98). -/

namespace Sys2Proof

/-- The 30 operations of R98. An operand is a constructor's argument where the operation takes a value that is not
fixed by the row: `DEC.SEEK.HIT` takes only the byte 0xAA and `DEC.END.OK` only 0x55 (R97), so these carry none. -/
inductive Instr where
  /-- `CRC.CLR` (R124) -/
  | crcClr
  /-- `CRC.BYTE b` (R125) -/
  | crcByte (b : Byte)
  /-- `CRC.READ` (R126) -/
  | crcRead
  /-- `ENC.CLEAR` (R141) -/
  | encClear
  /-- `ENC.PUSH v` (R143) -/
  | encPush (v : PushValue)
  /-- `ENC.START` (R145) -/
  | encStart
  /-- `ENC.EMIT.START` (R146) -/
  | encEmitStart
  /-- `ENC.EMIT.LEN` (R147) -/
  | encEmitLen
  /-- `ENC.EMIT.DATA` (R148) -/
  | encEmitData
  /-- `ENC.EMIT.CHK` (R149) -/
  | encEmitChk
  /-- `ENC.EMIT.END` (R150) -/
  | encEmitEnd
  /-- `DEC.START` (R171) -/
  | decStart
  /-- `DEC.SEEK.HIT` (R172), its byte being 0xAA -/
  | decSeekHit
  /-- `DEC.SEEK.SKIP` (R173) -/
  | decSeekSkip (b : Byte)
  /-- `DEC.SEEK.TMO` (R174) -/
  | decSeekTmo
  /-- `DEC.LEN.OK` (R175) -/
  | decLenOk (b : Byte)
  /-- `DEC.LEN.BAD` (R176) -/
  | decLenBad (b : Byte)
  /-- `DEC.LEN.TMO` (R177) -/
  | decLenTmo
  /-- `DEC.DATA.BYTE` (R178) -/
  | decDataByte (b : Byte)
  /-- `DEC.DATA.TMO` (R179) -/
  | decDataTmo
  /-- `DEC.CHK.BYTE` (R180) -/
  | decChkByte (b : Byte)
  /-- `DEC.CHK.TMO` (R181) -/
  | decChkTmo
  /-- `DEC.END.OK` (R182), its byte being 0x55 -/
  | decEndOk
  /-- `DEC.END.BAD` (R183) -/
  | decEndBad (b : Byte)
  /-- `DEC.END.TMO` (R184) -/
  | decEndTmo
  /-- `DEC.TICK` (R187) -/
  | decTick
  /-- `DEC.SETTMO t` (R188) -/
  | decSetTmo (t : Ticks)
  /-- `DEC.RESULT` (R189) -/
  | decResult
  /-- `DEC.RDBUF i` (R190) -/
  | decRdbuf (i : Byte)
  /-- `SYS.RESET` (R270) -/
  | sysReset
  deriving DecidableEq, Repr

end Sys2Proof
end

