-- ==== Sys2Proof/WellFormed.lean ====
section
/-! DEFINITION. Which terms of `Instr` are operations: the byte an operation carries is one that selects it
(the `byte_ranges` column of opcode_table.json, R97, R99). Every other operand is any value of its port's width. -/

namespace Sys2Proof

/-- The byte conditions of the four `xfer:rx` rows whose byte is neither fixed nor free. -/
def Instr.wellFormed : Instr → Bool
  | .decSeekSkip b => b != Config.startMarker
  | .decLenOk b => decide (Config.lenMin ≤ b.toNat) && decide (b.toNat ≤ Config.lenMax)
  | .decLenBad b => decide (b.toNat < Config.lenMin) || decide (Config.lenMax < b.toNat)
  | .decEndBad b => b != Config.endMarker
  | .crcClr | .crcByte _ | .crcRead => true
  | .encClear | .encPush _ | .encStart => true
  | .encEmitStart | .encEmitLen | .encEmitData | .encEmitChk | .encEmitEnd => true
  | .decStart | .decSeekHit | .decSeekTmo | .decLenTmo | .decDataByte _ | .decDataTmo => true
  | .decChkByte _ | .decChkTmo | .decEndOk | .decEndTmo => true
  | .decTick | .decSetTmo _ | .decResult | .decRdbuf _ | .sysReset => true

end Sys2Proof
end

