-- ==== Sys2Proof/Decode.lean ====
section
/-! DEFINITION. The decoder: the operation map of R97 and R98, total on every (encoder state, decoder state, event), and
the encoder that names the selection of each operation. The core fetches no instruction words (R1, R60), so what it
decodes is a *selection*: "the triple (unit, sequencer state, event) and, for a byte from the Link, a test on the byte"
(30_encoding.md, opening). -/

namespace Sys2Proof

/-- What selects an operation (R98): the two sequencers' states and the event. -/
structure Selection where
  enc : EncState
  dec : DecState
  event : Event
  deriving DecidableEq, Repr

/-- Why an event selects no operation. None of these is an error: the event is no transfer and nothing happens
(R186, R220, R222). -/
inductive Reject where
  /-- LINK_TX is ready but `tx_valid = 0`: the encoder is in `Idle` (R222). -/
  | txNotValid
  /-- LINK_RX offers a byte but `rx_ready = 0`: the decoder is in `Idle` or `Done` (R186). -/
  | rxNotReady
  /-- A TimeoutSignal, and no read is in progress for it to end (R223). -/
  | noReadInProgress
  deriving DecidableEq, Repr

/-- What decoding answers: an operation, or a rejection by name. -/
inductive Decoded where
  | op (i : Instr)
  | reject (r : Reject)
  deriving DecidableEq, Repr

/-- `1 <= b <= 200` (R97, R175). -/
def lengthLegal (b : Byte) : Bool :=
  decide (Config.lenMin ≤ b.toNat) && decide (b.toNat ≤ Config.lenMax)

/-- The operation a byte from LINK_RX selects (R97). -/
def decodeRx (d : DecState) (b : Byte) : Decoded :=
  match d with
  | .idle => .reject .rxNotReady
  | .seekStart => if b = Config.startMarker then .op .decSeekHit else .op (.decSeekSkip b)
  | .readLength => if lengthLegal b then .op (.decLenOk b) else .op (.decLenBad b)
  | .readPayload => .op (.decDataByte b)
  | .readChecksum => .op (.decChkByte b)
  | .readEnd => if b = Config.endMarker then .op .decEndOk else .op (.decEndBad b)
  | .done => .reject .rxNotReady

/-- The operation a TimeoutSignal selects (R97, R98). -/
def decodeTimeout : DecState → Decoded
  | .idle => .reject .noReadInProgress
  | .seekStart => .op .decSeekTmo
  | .readLength => .op .decLenTmo
  | .readPayload => .op .decDataTmo
  | .readChecksum => .op .decChkTmo
  | .readEnd => .op .decEndTmo
  | .done => .reject .noReadInProgress

/-- The operation a transfer on `tx` selects (R98). -/
def decodeTx : EncState → Decoded
  | .idle => .reject .txNotValid
  | .emitStart => .op .encEmitStart
  | .emitLen => .op .encEmitLen
  | .emitPayload => .op .encEmitData
  | .emitChecksum => .op .encEmitChk
  | .emitEnd => .op .encEmitEnd

/-- The operation a host command selects (R98). Its guard is tested by the operation (R152, R186). -/
def decodeHost : HostCmd → Instr
  | .crcClr => .crcClr
  | .crcByte b => .crcByte b
  | .crcRead => .crcRead
  | .encClear => .encClear
  | .encPush v => .encPush v
  | .encStart => .encStart
  | .decStart => .decStart
  | .decSetTmo t => .decSetTmo t
  | .decResult => .decResult
  | .decRdbuf i => .decRdbuf i

/-- The operation map (R97, R98). -/
def decode (w : Selection) : Decoded :=
  match w.event with
  | .host c => .op (decodeHost c)
  | .txTransfer => decodeTx w.enc
  | .rxTransfer b => decodeRx w.dec b
  | .timeoutSignal => decodeTimeout w.dec
  | .tick => .op .decTick
  | .rst => .op .sysReset

/-- The selection of an operation by the table of R98, where the encoder is in `e` and the decoder in `d`: the state the
row names for its unit replaces that unit's, the other unit's stays, and the event carries the operand. -/
def encode (e : EncState) (d : DecState) : Instr → Selection
  | .crcClr => ⟨e, d, .host .crcClr⟩
  | .crcByte b => ⟨e, d, .host (.crcByte b)⟩
  | .crcRead => ⟨e, d, .host .crcRead⟩
  | .encClear => ⟨e, d, .host .encClear⟩
  | .encPush v => ⟨e, d, .host (.encPush v)⟩
  | .encStart => ⟨e, d, .host .encStart⟩
  | .encEmitStart => ⟨.emitStart, d, .txTransfer⟩
  | .encEmitLen => ⟨.emitLen, d, .txTransfer⟩
  | .encEmitData => ⟨.emitPayload, d, .txTransfer⟩
  | .encEmitChk => ⟨.emitChecksum, d, .txTransfer⟩
  | .encEmitEnd => ⟨.emitEnd, d, .txTransfer⟩
  | .decStart => ⟨e, d, .host .decStart⟩
  | .decSeekHit => ⟨e, .seekStart, .rxTransfer 0xAA#8⟩
  | .decSeekSkip b => ⟨e, .seekStart, .rxTransfer b⟩
  | .decSeekTmo => ⟨e, .seekStart, .timeoutSignal⟩
  | .decLenOk b => ⟨e, .readLength, .rxTransfer b⟩
  | .decLenBad b => ⟨e, .readLength, .rxTransfer b⟩
  | .decLenTmo => ⟨e, .readLength, .timeoutSignal⟩
  | .decDataByte b => ⟨e, .readPayload, .rxTransfer b⟩
  | .decDataTmo => ⟨e, .readPayload, .timeoutSignal⟩
  | .decChkByte b => ⟨e, .readChecksum, .rxTransfer b⟩
  | .decChkTmo => ⟨e, .readChecksum, .timeoutSignal⟩
  | .decEndOk => ⟨e, .readEnd, .rxTransfer 0x55#8⟩
  | .decEndBad b => ⟨e, .readEnd, .rxTransfer b⟩
  | .decEndTmo => ⟨e, .readEnd, .timeoutSignal⟩
  | .decTick => ⟨e, d, .tick⟩
  | .decSetTmo t => ⟨e, d, .host (.decSetTmo t)⟩
  | .decResult => ⟨e, d, .host .decResult⟩
  | .decRdbuf i => ⟨e, d, .host (.decRdbuf i)⟩
  | .sysReset => ⟨e, d, .rst⟩

/-- One `xfer:rx` row of the table (R97, R99): the state, the inclusive ranges of byte values, the operation. -/
structure RxRow where
  state : DecState
  ranges : List (Nat × Nat)
  op : Byte → Instr

/-- Whether a row's `byte_ranges` hold the byte. -/
def RxRow.covers (r : RxRow) (b : Byte) : Bool :=
  r.ranges.any fun lh => decide (lh.1 ≤ b.toNat) && decide (b.toNat ≤ lh.2)

/-- The eight `xfer:rx` rows of opcode_table.json, in its order, `byte_ranges` as it lists them. -/
def rxRows : List RxRow :=
  [ ⟨.seekStart, [(170, 170)], fun _ => .decSeekHit⟩,
    ⟨.seekStart, [(0, 169), (171, 255)], .decSeekSkip⟩,
    ⟨.readLength, [(1, 200)], .decLenOk⟩,
    ⟨.readLength, [(0, 0), (201, 255)], .decLenBad⟩,
    ⟨.readPayload, [(0, 255)], .decDataByte⟩,
    ⟨.readChecksum, [(0, 255)], .decChkByte⟩,
    ⟨.readEnd, [(85, 85)], fun _ => .decEndOk⟩,
    ⟨.readEnd, [(0, 84), (86, 255)], .decEndBad⟩ ]

/-- The decoder state in which a lone stream byte is read here as a table word: by its place in a frame (R90), the start
marker where `SeekStart` reads, the end marker where `ReadEnd` reads, any other byte where `ReadPayload` reads (log 16). -/
def wordState (b : Byte) : DecState :=
  if b = Config.startMarker then .seekStart
  else if b = Config.endMarker then .readEnd
  else .readPayload

/-- The instruction the decoder reads from a word of the opcode table. The only words the table gives are the 8-bit
patterns of the stream byte (R99), and the bytes the core *takes* are those of the RX stream; a row with no pattern has
no word (log 16). -/
def decodeTableWord (nbits w : Nat) : Option Instr :=
  if nbits = 8 ∧ w < 256 then
    match decodeRx (wordState (BitVec.ofNat 8 w)) (BitVec.ofNat 8 w) with
    | .op i => some i
    | .reject _ => none
  else none

end Sys2Proof
end

