-- ==== Sys2Proof/Machine/Operands.lean ====
section
/-! DEFINITION. What the operations compute on values: the checksum functions (R121 to R123), the clamp (R142) and the
reading of the signed port (R143). -/

namespace Sys2Proof.Machine

/-- `crc_bit(a)` (R121): shift left by one; if bit 7 was set, exclusive-or with the generator. An 8-bit shift drops the
old bit 7, which is the mask of the rule. -/
def crcBit (a : Byte) : Byte :=
  if a.getLsbD 7 then (a <<< 1) ^^^ Config.poly else a <<< 1

/-- `n` bit steps (R122). -/
def crcBits : Nat → Byte → Byte
  | 0, a => a
  | n + 1, a => crcBits n (crcBit a)

/-- `crc_byte(a, b)` (R122): the byte into the accumulator, then 8 bit steps. -/
def crcByte (a b : Byte) : Byte :=
  crcBits 8 (a ^^^ b)

/-- `crc8(s)` continued from the accumulator `a` (R123). -/
def crcFrom (a : Byte) (s : List Byte) : Byte :=
  s.foldl crcByte a

/-- `crc8(s)` (R123): from the initial value, one byte step for each byte in order. -/
def crc8 (s : List Byte) : Byte :=
  crcFrom Config.crcInit s

/-- `sext(v)` (R11, R143): the port's value as an integer. -/
def sext (v : PushValue) : Int :=
  v.toInt

/-- `clamp(v)` (R142), over all integers. -/
def clamp (v : Int) : Byte :=
  if v < 0 then 0x00#8
  else if 255 < v then 0xFF#8
  else BitVec.ofNat 8 v.toNat

end Sys2Proof.Machine
end

