-- ==== Sys2Proof/Machine/State.lean ====
section
/-! DEFINITION. The state of the machine as plain data: the whole architectural state of R20, the two Link streams of R60,
and the model's own fields (INVENTORY.md, State). -/

namespace Sys2Proof.Machine

/-- A buffer: (index, byte) pairs, indices strictly rising. A cell that is not listed has no value (R26, R37, log 7). -/
abbrev Memory := List Host.Cell

/-- The registers and the buffer of the encoder (R22 to R26). -/
structure Enc where
  /-- `enc_state` (R22) -/
  state : EncState
  /-- `tx_cnt` (R23) -/
  txCnt : Byte
  /-- `tx_idx` (R24) -/
  txIdx : Byte
  /-- `enc_crc` (R25) -/
  crc : Byte
  /-- `TXBUF[0 .. 254]` (R26, R61) -/
  txbuf : Memory
  deriving DecidableEq, Repr

/-- The registers and the buffer of the decoder (R28 to R37). -/
structure Dec where
  /-- `dec_state` (R28) -/
  state : DecState
  /-- `dec_status` (R29) -/
  status : DecStatus
  /-- `rx_len` (R30) -/
  rxLen : Byte
  /-- `rx_rem` (R31) -/
  rxRem : Byte
  /-- `rx_cnt` (R32) -/
  rxCnt : Byte
  /-- `rx_chk` (R33) -/
  rxChk : Byte
  /-- `dec_crc` (R34) -/
  crc : Byte
  /-- `tmr` (R35) -/
  tmr : Ticks
  /-- `dec_tmo_cfg` (R36) -/
  tmoCfg : Ticks
  /-- `RXBUF[0 .. 199]` (R37, R62) -/
  rxbuf : Memory
  deriving DecidableEq, Repr

/-- What the host has read from the decoder (R189, R190). -/
inductive DecSample where
  /-- the five result ports of `DEC.RESULT`: `dec_status`, `dec_cnt`, `dec_len`, `dec_chk`, `dec_crc_out` (R189) -/
  | result (status : DecStatus) (cnt len chk crc : Byte)
  /-- `rxb_data` at the address `i` (R190) -/
  | cell (i b : Byte)
  deriving DecidableEq, Repr

/-- The state. The three units' records are disjoint (R3, R20, R254). -/
structure State where
  /-- `crc0` (R21) -/
  crc0 : Byte
  /-- `ENC` -/
  enc : Enc
  /-- `DEC` -/
  dec : Dec
  /-- the TX stream: the bytes LINK_TX has taken, oldest first (R60, R221) -/
  txStream : List Byte
  /-- the RX stream: what LINK_RX has still to deliver, the first item being on offer (R60, R220, R223, R225) -/
  rxStream : List LinkItem
  /-- MODEL'S OWN: the agents' moves still to come, next first (R9; log 1) -/
  moves : List Move
  /-- MODEL'S OWN: the values `CRC.READ` has returned, oldest first (R126; log 5) -/
  crcSamples : List Byte
  /-- MODEL'S OWN: the values `DEC.RESULT` and `DEC.RDBUF` have returned, oldest first (R189, R190; log 5) -/
  decSamples : List DecSample
  /-- MODEL'S OWN: how many free values unwritten `TXBUF` cells have given (log 7) -/
  txFree : Nat
  /-- MODEL'S OWN: how many free values unwritten `RXBUF` cells have given (log 7) -/
  rxFree : Nat
  deriving DecidableEq, Repr

/-- Why the machine stops with a fault: for no reason. The core's operations raise none, and "a model has therefore no fault
constructor for the core's own operations" (R240, R262); what 93_implementation_defined.md lets a model fault or refuse,
this one refuses or answers with a free value (`Refusal`, log 7). -/
inductive Fault where
  deriving DecidableEq, Repr

/-- Why the machine gives an operation no meaning. -/
inductive Refusal where
  /-- An operation with no meaning in the model yet. Raised by `exec`'s arms only, and by none of them now. Safe. -/
  | notModelled (mnemonic : String)
  /-- `DEC.RESULT` while a read is in progress: "the ports show registers in motion, and the model refuses the read"
  (R189, R73, U4). Raised by `DEC.RESULT` only. Safe: the model stops (log 9). -/
  | resultsInMotion
  /-- `DEC.RDBUF` when the decoder is not in `Done`: "with the guard false the model refuses the read" (R190, R73).
  Raised by `DEC.RDBUF` only. Safe: the model stops (log 10). -/
  | bufferInMotion
  /-- `DEC.RDBUF i` at `i >= rx_cnt`, every `i >= 200` among them: "reads no defined value, and a model faults or refuses
  it" (R190, R62, U3). Raised by `DEC.RDBUF` only. Safe: the model stops (log 10). -/
  | noPayloadByte
  deriving DecidableEq, Repr

/-- The encoder after reset (R46). -/
def Enc.reset : Enc where
  state := .idle
  txCnt := 0x00#8
  txIdx := 0x00#8
  crc := 0x00#8
  txbuf := []

/-- The decoder after reset (R46). -/
def Dec.reset : Dec where
  state := .idle
  status := .noOutcome
  rxLen := 0x00#8
  rxRem := 0x00#8
  rxCnt := 0x00#8
  rxChk := 0x00#8
  crc := 0x00#8
  tmr := 0#32
  tmoCfg := 0#32
  rxbuf := []

/-- The machine right after reset (R46): every register at the value of the table, both buffers with no cell listed,
nothing on either stream, no move to come. The values of the streams and of the model's own fields are this model's
(DESIGN CHOICE, logs 1, 2, 5, 6, 7). -/
def State.reset : State where
  crc0 := 0x00#8
  enc := Enc.reset
  dec := Dec.reset
  txStream := []
  rxStream := []
  moves := []
  crcSamples := []
  decSamples := []
  txFree := 0
  rxFree := 0

end Sys2Proof.Machine
end

