-- ==== Sys2Proof/Machine/Ops.lean ====
section
/-! DEFINITION. The named operations over the state: buffer accesses (R11, R61, R62), the write to the Link (R221), the
register transfers of the encoder and the decoder, and the entry into a terminal outcome (R244) with the return from it
(R248). The meanings of the operations are these under their guards. -/

namespace Sys2Proof.Machine

/-! Buffers. -/

/-- What a cell that is not listed holds: no value (R26, R37; log 7). -/
def Memory.unlisted : Option Byte := none

/-- The byte at index `i` of a buffer, where one is held (R11, `MemRead`). -/
def Memory.read? : Memory → Nat → Option Byte
  | [], _ => Memory.unlisted
  | (k, v) :: m, i => if k = i then some v else Memory.read? m i

/-- Write `v` at index `i` (R11, `MemWrite`), keeping the indices in rising order. -/
def Memory.write : Memory → Nat → Byte → Memory
  | [], i, v => [(i, v)]
  | (k, x) :: m, i, v =>
    if i < k then (i, v) :: (k, x) :: m
    else if i = k then (i, v) :: m
    else (k, x) :: Memory.write m i v

/-- `MemRead` of a buffer of `depth` cells: an index that is no cell (R60) holds no value either (log 8). -/
def Memory.cell? (depth : Nat) (m : Memory) (i : Nat) : Option Byte :=
  if i < depth then Memory.read? m i else Memory.unlisted

/-- `MemWrite` to a buffer of `depth` cells: an index that is no cell (R60) stores nothing (log 8). -/
def Memory.store (depth : Nat) (m : Memory) (i : Nat) (v : Byte) : Memory :=
  if i < depth then Memory.write m i v else m

/-- The canonical form: indices strictly rising. (Every listed cell differs from an unlisted one, which has no value.) -/
abbrev Memory.wf (m : Memory) : Prop :=
  List.Pairwise (fun a b => a.1 < b.1) m

/-- `S[0 .. n)`: the bytes held at the first `n` indices, in order (R10). -/
def Memory.bytes (m : Memory) (n : Nat) : List Byte :=
  (List.range n).filterMap (Memory.read? m)

/-- Every one of the first `n` cells holds a byte. -/
def Memory.written (m : Memory) (n : Nat) : Bool :=
  (List.range n).all fun i => (Memory.read? m i).isSome

/-! Updates of the state, one unit at a time (R20). -/

/-- Replace `crc0`. -/
def State.withCrc0 (a : Byte) (s : State) : State := { s with crc0 := a }

/-- Replace the encoder. -/
def State.withEnc (e : Enc) (s : State) : State := { s with enc := e }

/-- Replace the decoder. -/
def State.withDec (d : Dec) (s : State) : State := { s with dec := d }

/-- Replace the moves still to come. -/
def State.withMoves (ms : List Move) (s : State) : State := { s with moves := ms }

/-- `LinkWrite(b)` (R11, R221): the byte joins the end of the TX stream. -/
def State.linkWrite (b : Byte) (s : State) : State := { s with txStream := s.txStream ++ [b] }

/-- The host notes the value of `crc0_acc` (R126; log 5). -/
def State.sampleCrc (b : Byte) (s : State) : State := { s with crcSamples := s.crcSamples ++ [b] }

/-- The host notes what the decoder's ports show (R189, R190; log 5). -/
def State.sampleDec (x : DecSample) (s : State) : State := { s with decSamples := s.decSamples ++ [x] }

/-- `TXBUF[i]`, where the cell holds a byte. -/
def State.txCell? (s : State) (i : Nat) : Option Byte := Memory.cell? Config.txbufDepth s.enc.txbuf i

/-- `RXBUF[i]`, where the cell holds a byte. -/
def State.rxCell? (s : State) (i : Nat) : Option Byte := Memory.cell? Config.rxbufDepth s.dec.rxbuf i

/-- `MemRead(TXBUF, i, 1)`: the cell's byte, or a free value where the cell holds none (U10; logs 7, 8). -/
def State.txByte (s : State) (i : Nat) : Byte :=
  (s.txCell? i).getD (Config.freeTxByte s.txFree)

/-- Count the free value that `txByte` gave, if it gave one. -/
def State.drawTx (i : Nat) (s : State) : State :=
  if (s.txCell? i).isSome then s else { s with txFree := s.txFree + 1 }

/-- `MemRead(RXBUF, i, 1)`: the cell's byte, or a free value where the cell holds none (U10; log 7). -/
def State.rxByte (s : State) (i : Nat) : Byte :=
  (s.rxCell? i).getD (Config.freeRxByte s.rxFree)

/-- Count the free value that `rxByte` gave, if it gave one. -/
def State.drawRx (i : Nat) (s : State) : State :=
  if (s.rxCell? i).isSome then s else { s with rxFree := s.rxFree + 1 }

/-! Guards. An operation happens when its event and its state select it and its guard holds, and then only; otherwise
nothing changes (R98, R152, R186, R220; log 11). -/

/-- The encoder becomes `e` if `c`, else nothing happens. -/
def onEnc (c : Bool) (e : Enc) (s : State) : Host.Outcome State Fault Refusal :=
  .next (if c then s.withEnc e else s)

/-- The byte `b` goes to the Link and the encoder becomes `e` if `c`, else nothing happens. -/
def emitOn (c : Bool) (b : Byte) (e : Enc) (s : State) : Host.Outcome State Fault Refusal :=
  .next (if c then (s.linkWrite b).withEnc e else s)

/-- The decoder becomes `d` if `c`, else nothing happens. -/
def onDec (c : Bool) (d : Dec) (s : State) : Host.Outcome State Fault Refusal :=
  .next (if c then s.withDec d else s)

/-! The encoder's register transfers. -/

/-- `enc_state == Idle`. -/
def Enc.isIdle (e : Enc) : Bool := decide (e.state = .idle)

/-- `enc_push_ready` (R27). -/
def Enc.pushReady (e : Enc) : Bool := e.isIdle && decide (e.txCnt.toNat < Config.txbufDepth)

/-- `ENC.CLEAR` (R141): the buffer is emptied, not erased. -/
def Enc.clear (e : Enc) : Enc := { e with txCnt := 0x00#8 }

/-- `ENC.PUSH` (R143) of a value already clamped. -/
def Enc.push (b : Byte) (e : Enc) : Enc :=
  { e with txbuf := Memory.write e.txbuf e.txCnt.toNat b, txCnt := e.txCnt + 1#8 }

/-- `ENC.START` (R145). -/
def Enc.start (e : Enc) : Enc :=
  { e with state := .emitStart, txIdx := 0x00#8, crc := Config.crcInit }

/-- After the start marker (R146). -/
def Enc.afterStart (e : Enc) : Enc := { e with state := .emitLen }

/-- After the length byte (R147). -/
def Enc.afterLen (e : Enc) : Enc :=
  { e with
    crc := crcByte Config.crcInit e.txCnt
    state := if e.txCnt = 0x00#8 then .emitChecksum else .emitPayload }

/-- After the payload byte `b` (R148). -/
def Enc.afterData (b : Byte) (e : Enc) : Enc :=
  { e with
    crc := crcByte e.crc b
    txIdx := e.txIdx + 1#8
    state := if e.txIdx + 1#8 = e.txCnt then .emitChecksum else .emitPayload }

/-- After the checksum byte (R149). -/
def Enc.afterChk (e : Enc) : Enc := { e with state := .emitEnd }

/-- After the end marker (R150): back to `Idle`, the payload gone. -/
def Enc.afterEnd (e : Enc) : Enc := { e with state := .idle, txCnt := 0x00#8 }

/-! The decoder's register transfers. -/

/-- `dec_busy`: the decoder is in a reading state (R28, R38). -/
def Dec.busy (d : Dec) : Bool :=
  match d.state with
  | .idle | .done => false
  | .seekStart | .readLength | .readPayload | .readChecksum | .readEnd => true

/-- `raise <Status>` (R11, R244), the entry into a terminal outcome: the status is written, the decoder moves to `Done`,
every other register and `RXBUF` keep their values. -/
def Dec.raise (st : DecStatus) (d : Dec) : Dec := { d with status := st, state := .done }

/-- `DEC.START` (R171), the return from a terminal outcome (R248): the outcome is erased and the next attempt begins.
`RXBUF` is not erased. -/
def Dec.startAttempt (d : Dec) : Dec :=
  { d with
    state := .seekStart
    status := .noOutcome
    rxLen := 0x00#8
    rxRem := 0x00#8
    rxCnt := 0x00#8
    rxChk := 0x00#8
    crc := Config.crcInit
    tmr := d.tmoCfg }

/-- "reload" (42_frame_decoder.md, opening): `tmr <- dec_tmo_cfg`. -/
def Dec.reload (d : Dec) : Dec := { d with tmr := d.tmoCfg }

/-- `DEC.SEEK.HIT` (R172). -/
def Dec.seekHit (d : Dec) : Dec := { d with state := .readLength }.reload

/-- `DEC.LEN.OK` (R175). -/
def Dec.takeLength (b : Byte) (d : Dec) : Dec :=
  { d with
    rxLen := b
    rxRem := b
    rxCnt := 0x00#8
    crc := crcByte Config.crcInit b
    state := .readPayload }.reload

/-- `DEC.LEN.BAD` (R176): the offending byte is kept. -/
def Dec.rejectLength (b : Byte) (d : Dec) : Dec := { d with rxLen := b }.raise .desync

/-- `DEC.DATA.BYTE` (R178). -/
def Dec.takeData (b : Byte) (d : Dec) : Dec :=
  { d with
    rxbuf := Memory.store Config.rxbufDepth d.rxbuf d.rxCnt.toNat b
    rxCnt := d.rxCnt + 1#8
    rxRem := d.rxRem - 1#8
    crc := crcByte d.crc b
    state := if d.rxRem - 1#8 = 0x00#8 then .readChecksum else .readPayload }.reload

/-- `DEC.CHK.BYTE` (R180). -/
def Dec.takeChecksum (b : Byte) (d : Dec) : Dec := { d with rxChk := b, state := .readEnd }.reload

/-- The payload of the DecodeOutcome, `RXBUF[0 .. rx_cnt)` (R170, R189, D16). -/
def Dec.payload (d : Dec) : List Byte := Memory.bytes d.rxbuf d.rxCnt.toNat

/-- Whether "some k < rx_cnt has RXBUF[k] outside 0 .. 255" (R182). Never, on bytes (R185). -/
def Dec.rangeViolated (d : Dec) : Bool := d.payload.any fun b => decide (255 < b.toNat)

/-- The three tests at the end marker, in the order of R182. -/
def Dec.verdict (d : Dec) : DecStatus :=
  if d.crc ≠ d.rxChk then .crcMismatch
  else if d.rangeViolated then .rangeError
  else .success

/-- The TimeoutSignal delivered to the current state (R174, R177, R179, R181, R184, R187): `Timeout`, but `Desync` in
`ReadEnd`. Outside the reading states there is no read to end. -/
def Dec.timeoutSignal (d : Dec) : Dec :=
  match d.state with
  | .seekStart | .readLength | .readPayload | .readChecksum => d.raise .timeout
  | .readEnd => d.raise .desync
  | .idle | .done => d

/-- `DEC.TICK` (R187), in a reading state. -/
def Dec.tick (d : Dec) : Dec :=
  if d.tmr ≤ 1#32 then d.timeoutSignal else { d with tmr := d.tmr - 1#32 }

/-- `DEC.SETTMO t` (R188). -/
def Dec.setTimeout (t : Ticks) (d : Dec) : Dec := { d with tmoCfg := t }

/-- What the result ports show (R189). -/
def Dec.resultSample (d : Dec) : DecSample := .result d.status d.rxCnt d.rxLen d.rxChk d.crc

/-! What the agents outside the core bring (R9). -/

/-- The event a move presents to the core: LINK_RX presents the first item of the RX stream, if there is one. -/
def State.presented (s : State) : Move → Option Event
  | .host c => some (.host c)
  | .linkTx => some .txTransfer
  | .linkRx =>
    match s.rxStream with
    | [] => none
    | .byte b :: _ => some (.rxTransfer b)
    | .timeout :: _ => some .timeoutSignal
  | .ticker => some .tick
  | .reset => some .rst

/-- The move has been made, and nothing was transferred: an item on offer stays on offer (R220, R225). -/
def State.spendMove (s : State) : State := { s with moves := s.moves.tail }

/-- The move has been made and its event taken: a read consumes the item (R68, R223). -/
def State.takeMove (m : Move) (s : State) : State :=
  match m with
  | .linkRx => { s with moves := s.moves.tail, rxStream := s.rxStream.tail }
  | .host _ | .linkTx | .ticker | .reset => s.spendMove

/-- Put a stream byte where the very next step takes it: LINK_RX moves next and offers it, and the decoder is in the state
in which `wordState` reads it (log 16). -/
def State.offerWord (b : Byte) (s : State) : State :=
  { s with
    moves := .linkRx :: s.moves
    rxStream := .byte b :: s.rxStream
    dec := { s.dec with state := wordState b } }

end Sys2Proof.Machine
end

