-- ==== Sys2Proof/Machine/Crc.lean ====
section
/-! DEFINITION. The operations of the checksum engine `CRC0` (R124 to R126). -/

namespace Sys2Proof.Machine

/-- `CRC.CLR` (R124). -/
def execCrcClr (s : State) : Host.Outcome State Fault Refusal :=
  .next (s.withCrc0 Config.crcInit)

/-- `CRC.BYTE b` (R125): accepted whenever offered. -/
def execCrcByte (b : Byte) (s : State) : Host.Outcome State Fault Refusal :=
  .next (s.withCrc0 (crcByte s.crc0 b))

/-- `CRC.READ` (R126): the host takes `crc0`; no register is written. -/
def execCrcRead (s : State) : Host.Outcome State Fault Refusal :=
  .next (s.sampleCrc s.crc0)

end Sys2Proof.Machine
end

