-- ==== Sys2Proof/Machine/Decoder.lean ====
section
/-! DEFINITION. The operations of the frame decoder `DEC` (R171 to R190). The byte of an operation has already been taken
from the RX stream by the step (`State.takeMove`). -/

namespace Sys2Proof.Machine

/-- `DEC.START` (R171). -/
def execDecStart (s : State) : Host.Outcome State Fault Refusal :=
  onDec (!s.dec.busy) s.dec.startAttempt s

/-- `DEC.SEEK.HIT` (R172). -/
def execDecSeekHit (s : State) : Host.Outcome State Fault Refusal :=
  onDec (decide (s.dec.state = .seekStart)) s.dec.seekHit s

/-- `DEC.SEEK.SKIP` (R173): the byte is discarded and the read starts afresh. -/
def execDecSeekSkip (b : Byte) (s : State) : Host.Outcome State Fault Refusal :=
  onDec (decide (s.dec.state = .seekStart ∧ b ≠ Config.startMarker)) s.dec.reload s

/-- `DEC.SEEK.TMO` (R174). -/
def execDecSeekTmo (s : State) : Host.Outcome State Fault Refusal :=
  onDec (decide (s.dec.state = .seekStart)) (s.dec.raise .timeout) s

/-- `DEC.LEN.OK` (R175). -/
def execDecLenOk (b : Byte) (s : State) : Host.Outcome State Fault Refusal :=
  onDec (decide (s.dec.state = .readLength) && lengthLegal b) (s.dec.takeLength b) s

/-- `DEC.LEN.BAD` (R176). -/
def execDecLenBad (b : Byte) (s : State) : Host.Outcome State Fault Refusal :=
  onDec (decide (s.dec.state = .readLength) && !lengthLegal b) (s.dec.rejectLength b) s

/-- `DEC.LEN.TMO` (R177). -/
def execDecLenTmo (s : State) : Host.Outcome State Fault Refusal :=
  onDec (decide (s.dec.state = .readLength)) (s.dec.raise .timeout) s

/-- `DEC.DATA.BYTE` (R178). -/
def execDecDataByte (b : Byte) (s : State) : Host.Outcome State Fault Refusal :=
  onDec (decide (s.dec.state = .readPayload)) (s.dec.takeData b) s

/-- `DEC.DATA.TMO` (R179). -/
def execDecDataTmo (s : State) : Host.Outcome State Fault Refusal :=
  onDec (decide (s.dec.state = .readPayload)) (s.dec.raise .timeout) s

/-- `DEC.CHK.BYTE` (R180). -/
def execDecChkByte (b : Byte) (s : State) : Host.Outcome State Fault Refusal :=
  onDec (decide (s.dec.state = .readChecksum)) (s.dec.takeChecksum b) s

/-- `DEC.CHK.TMO` (R181). -/
def execDecChkTmo (s : State) : Host.Outcome State Fault Refusal :=
  onDec (decide (s.dec.state = .readChecksum)) (s.dec.raise .timeout) s

/-- `DEC.END.OK` (R182). -/
def execDecEndOk (s : State) : Host.Outcome State Fault Refusal :=
  onDec (decide (s.dec.state = .readEnd)) (s.dec.raise s.dec.verdict) s

/-- `DEC.END.BAD` (R183). -/
def execDecEndBad (b : Byte) (s : State) : Host.Outcome State Fault Refusal :=
  onDec (decide (s.dec.state = .readEnd ∧ b ≠ Config.endMarker)) (s.dec.raise .desync) s

/-- `DEC.END.TMO` (R184): `Desync`, not `Timeout`. -/
def execDecEndTmo (s : State) : Host.Outcome State Fault Refusal :=
  onDec (decide (s.dec.state = .readEnd)) (s.dec.raise .desync) s

/-- `DEC.TICK` (R187). -/
def execDecTick (s : State) : Host.Outcome State Fault Refusal :=
  onDec s.dec.busy s.dec.tick s

/-- `DEC.SETTMO t` (R188). -/
def execDecSetTmo (t : Ticks) (s : State) : Host.Outcome State Fault Refusal :=
  onDec (!s.dec.busy) (s.dec.setTimeout t) s

/-- `DEC.RESULT` (R189). Refused while a read is in progress (R73, U4); `Idle` shows the reset values, which U4 allows a
model to read (log 9). -/
def execDecResult (s : State) : Host.Outcome State Fault Refusal :=
  if s.dec.busy then .refused .resultsInMotion else .next (s.sampleDec s.dec.resultSample)

/-- `DEC.RDBUF i` (R190). Refused outside `Done` (R73) and at or past `rx_cnt`, every `i >= 200` among them (R62, U3;
log 10). -/
def execDecRdbuf (i : Byte) (s : State) : Host.Outcome State Fault Refusal :=
  if s.dec.state ≠ .done then .refused .bufferInMotion
  else if i.toNat < s.dec.rxCnt.toNat ∧ i.toNat < Config.rxbufDepth then
    .next ((s.drawRx i.toNat).sampleDec (.cell i (s.rxByte i.toNat)))
  else .refused .noPayloadByte

end Sys2Proof.Machine
end

