-- ==== Sys2Proof/Machine/Encoder.lean ====
section
/-! DEFINITION. The operations of the frame encoder `ENC` (R141, R143, R145 to R150). -/

namespace Sys2Proof.Machine

/-- `ENC.CLEAR` (R141). -/
def execEncClear (s : State) : Host.Outcome State Fault Refusal :=
  onEnc s.enc.isIdle s.enc.clear s

/-- `ENC.PUSH v` (R143): the value is clamped on its way into `TXBUF`. -/
def execEncPush (v : PushValue) (s : State) : Host.Outcome State Fault Refusal :=
  onEnc s.enc.pushReady (s.enc.push (clamp (sext v))) s

/-- `ENC.START` (R145). -/
def execEncStart (s : State) : Host.Outcome State Fault Refusal :=
  onEnc s.enc.isIdle s.enc.start s

/-- `ENC.EMIT.START` (R146). -/
def execEncEmitStart (s : State) : Host.Outcome State Fault Refusal :=
  emitOn (decide (s.enc.state = .emitStart)) Config.startMarker s.enc.afterStart s

/-- `ENC.EMIT.LEN` (R147). -/
def execEncEmitLen (s : State) : Host.Outcome State Fault Refusal :=
  emitOn (decide (s.enc.state = .emitLen)) s.enc.txCnt s.enc.afterLen s

/-- `ENC.EMIT.DATA` (R148). The index is below `tx_cnt` and its cell written in every state a run reaches (R44); where the cell
holds no byte the operation runs on a free one (logs 7, 8). -/
def execEncEmitData (s : State) : Host.Outcome State Fault Refusal :=
  let i := s.enc.txIdx.toNat
  if s.enc.state = .emitPayload then
    emitOn true (s.txByte i) (s.enc.afterData (s.txByte i)) (s.drawTx i)
  else .next s

/-- `ENC.EMIT.CHK` (R149). -/
def execEncEmitChk (s : State) : Host.Outcome State Fault Refusal :=
  emitOn (decide (s.enc.state = .emitChecksum)) s.enc.crc s.enc.afterChk s

/-- `ENC.EMIT.END` (R150). -/
def execEncEmitEnd (s : State) : Host.Outcome State Fault Refusal :=
  emitOn (decide (s.enc.state = .emitEnd)) Config.endMarker s.enc.afterEnd s

end Sys2Proof.Machine
end

