-- ==== Sys2Proof/Machine/System.lean ====
section
/-! DEFINITION. The reset of the core (R270). -/

namespace Sys2Proof.Machine

/-- `SYS.RESET` (R270): every register takes its value of R46 and the buffers become unspecified; the Link is not touched
(R271), and neither are the moves to come nor what the host has already read. -/
def execSysReset (s : State) : Host.Outcome State Fault Refusal :=
  .next (((s.withCrc0 Config.crcInit).withEnc Enc.reset).withDec Dec.reset)

end Sys2Proof.Machine
end

