-- ==== Sys2Proof/Machine/Dispatch.lean ====
section
/-! DEFINITION. The meaning of every operation: one arm per constructor of `Instr`. -/

namespace Sys2Proof.Machine

def exec (i : Instr) (s : State) : Host.Outcome State Fault Refusal :=
  match i with
  | .crcClr => Sys2Proof.Machine.execCrcClr s
  | .crcByte b => Sys2Proof.Machine.execCrcByte b s
  | .crcRead => Sys2Proof.Machine.execCrcRead s
  | .encClear => Sys2Proof.Machine.execEncClear s
  | .encPush v => Sys2Proof.Machine.execEncPush v s
  | .encStart => Sys2Proof.Machine.execEncStart s
  | .encEmitStart => Sys2Proof.Machine.execEncEmitStart s
  | .encEmitLen => Sys2Proof.Machine.execEncEmitLen s
  | .encEmitData => Sys2Proof.Machine.execEncEmitData s
  | .encEmitChk => Sys2Proof.Machine.execEncEmitChk s
  | .encEmitEnd => Sys2Proof.Machine.execEncEmitEnd s
  | .decStart => Sys2Proof.Machine.execDecStart s
  | .decSeekHit => Sys2Proof.Machine.execDecSeekHit s
  | .decSeekSkip b => Sys2Proof.Machine.execDecSeekSkip b s
  | .decSeekTmo => Sys2Proof.Machine.execDecSeekTmo s
  | .decLenOk b => Sys2Proof.Machine.execDecLenOk b s
  | .decLenBad b => Sys2Proof.Machine.execDecLenBad b s
  | .decLenTmo => Sys2Proof.Machine.execDecLenTmo s
  | .decDataByte b => Sys2Proof.Machine.execDecDataByte b s
  | .decDataTmo => Sys2Proof.Machine.execDecDataTmo s
  | .decChkByte b => Sys2Proof.Machine.execDecChkByte b s
  | .decChkTmo => Sys2Proof.Machine.execDecChkTmo s
  | .decEndOk => Sys2Proof.Machine.execDecEndOk s
  | .decEndBad b => Sys2Proof.Machine.execDecEndBad b s
  | .decEndTmo => Sys2Proof.Machine.execDecEndTmo s
  | .decTick => Sys2Proof.Machine.execDecTick s
  | .decSetTmo t => Sys2Proof.Machine.execDecSetTmo t s
  | .decResult => Sys2Proof.Machine.execDecResult s
  | .decRdbuf n => Sys2Proof.Machine.execDecRdbuf n s
  | .sysReset => Sys2Proof.Machine.execSysReset s

end Sys2Proof.Machine
end

