-- ==== Sys2Proof/Machine/Step.lean ====
section
/-! DEFINITION. One step of the machine: the next agent moves, its event is decoded in the two sequencers' states, and the
operation it selects runs (R8, R97, R98). -/

namespace Sys2Proof.Machine

/-- One step. With no move left, or a move that brings nothing (LINK_RX with nothing on offer) or that meets no partner
(a transfer the core is not ready for), nothing happens (R153, R186, R220, R228, R258; log 4). -/
def step (s : State) : Host.Outcome State Fault Refusal :=
  match s.moves with
  | [] => .next s
  | m :: _ =>
    match s.presented m with
    | none => .next s.spendMove
    | some ev =>
      match decode ⟨s.enc.state, s.dec.state, ev⟩ with
      | .op i => exec i (s.takeMove m)
      | .reject _ => .next s.spendMove

/-- The state whose very next step runs the instruction `decodeTableWord` reads from the word: the stream byte is on
offer, LINK_RX moves next, and the decoder is in the state in which the byte is read (log 16). A row with no 8-bit pattern
has no word, and the state is left as it is. -/
def State.withFetchWord (s : State) (nbits w : Nat) : State :=
  if nbits = 8 ∧ w < 256 then s.offerWord (BitVec.ofNat 8 w) else s

end Sys2Proof.Machine
end

