-- ==== Sys2Proof/Machine/Flags.lean ====
section
/-! DEFINITION. The derived flags (R27, R38), the codes of the enumerations (R22, R28, R29) and the output ports (R40), all
pure functions of the state (R255). -/

namespace Sys2Proof.Machine

/-- The code of `enc_state` (R22). -/
def encStateCode : EncState → BitVec 3
  | .idle => 0
  | .emitStart => 1
  | .emitLen => 2
  | .emitPayload => 3
  | .emitChecksum => 4
  | .emitEnd => 5

/-- The code of `dec_state` (R28). -/
def decStateCode : DecState → BitVec 3
  | .idle => 0
  | .seekStart => 1
  | .readLength => 2
  | .readPayload => 3
  | .readChecksum => 4
  | .readEnd => 5
  | .done => 6

/-- The code of `dec_status` (R29). -/
def decStatusCode : DecStatus → BitVec 3
  | .success => 0
  | .crcMismatch => 1
  | .rangeError => 2
  | .desync => 3
  | .timeout => 4
  | .noOutcome => 7

/-- `enc_busy` (R27). -/
def State.encBusy (s : State) : Bool := decide (s.enc.state ≠ .idle)

/-- `enc_push_ready` (R27). -/
def State.encPushReady (s : State) : Bool := s.enc.pushReady

/-- `tx_valid` (R27). -/
def State.txValid (s : State) : Bool := decide (s.enc.state ≠ .idle)

/-- `tx_data` (R27): the byte the current emitting state would write (R146 to R150); there is none in `Idle`. -/
def State.txData (s : State) : Option Byte :=
  match s.enc.state with
  | .idle => none
  | .emitStart => some Config.startMarker
  | .emitLen => some s.enc.txCnt
  | .emitPayload => some (s.txByte s.enc.txIdx.toNat)
  | .emitChecksum => some s.enc.crc
  | .emitEnd => some Config.endMarker

/-- `dec_busy` (R38). -/
def State.decBusy (s : State) : Bool := s.dec.busy

/-- `dec_done` (R38). -/
def State.decDone (s : State) : Bool := decide (s.dec.state = .done)

/-- `rx_ready` (R38). -/
def State.rxReady (s : State) : Bool := s.dec.busy

/-- The output ports of R40, less `rxb_data`, which depends on an input. -/
structure Outputs where
  crc0ByteReady : Bool
  crc0Acc : Byte
  encPushReady : Bool
  encBusy : Bool
  encCnt : Byte
  txValid : Bool
  txData : Option Byte
  decBusy : Bool
  decDone : Bool
  decStatus : BitVec 3
  decLen : Byte
  decCnt : Byte
  decChk : Byte
  decCrcOut : Byte
  rxReady : Bool
  deriving DecidableEq, Repr

/-- What the output ports show (R40); `crc0_byte_ready` is always 1 (R125). -/
def State.outputs (s : State) : Outputs where
  crc0ByteReady := true
  crc0Acc := s.crc0
  encPushReady := s.encPushReady
  encBusy := s.encBusy
  encCnt := s.enc.txCnt
  txValid := s.txValid
  txData := s.txData
  decBusy := s.decBusy
  decDone := s.decDone
  decStatus := decStatusCode s.dec.status
  decLen := s.dec.rxLen
  decCnt := s.dec.rxCnt
  decChk := s.dec.rxChk
  decCrcOut := s.dec.crc
  rxReady := s.rxReady

/-- `rxb_data` at the address `i` (R40), where it is a payload byte the host may read (R62, R190). -/
def State.rxbData (s : State) (i : Byte) : Option Byte :=
  if s.decDone ∧ i.toNat < s.dec.rxCnt.toNat ∧ i.toNat < Config.rxbufDepth then some (s.rxByte i.toNat) else none

end Sys2Proof.Machine
end

