-- ==== Sys2Proof/Machine/Frame.lean ====
section
/-! DEFINITION. The frame (R90) and the two functions the sequencers are said to compute: `encode` (R140) and one decode
attempt (R192), over values and with no machine in them. -/

namespace Sys2Proof.Machine

/-- A frame with the given payload bytes (R90, R91): start, length, payload, checksum, end. -/
def frame (c : List Byte) : List Byte :=
  let n : Byte := BitVec.ofNat 8 c.length
  Config.startMarker :: n :: c ++ [crc8 (n :: c), Config.endMarker]

/-- `encode(p)` (R140), for `0 <= n <= 255`; for more values the spec gives it no value (R144, U6). -/
def encodeFrame (p : List Int) : Option (List Byte) :=
  if p.length ≤ 255 then some (frame (p.map clamp)) else none

/-- What one decode attempt yields (R170, R192): the payload and the status of the DecodeOutcome, and how many items of
the RX stream were consumed. -/
structure AttemptResult where
  payload : List Byte
  status : DecStatus
  consumed : Nat
  deriving DecidableEq, Repr

/-- `1 + r`: one more item consumed (R192). -/
def AttemptResult.more (r : AttemptResult) : AttemptResult := { r with consumed := r.consumed + 1 }

/-- `end_(L, p, c, s)` (R192). -/
def attemptEnd (l : Byte) (p : List Byte) (c : Byte) : List LinkItem → Option AttemptResult
  | [] => none
  | .timeout :: _ => some ⟨p, .desync, 1⟩
  | .byte b :: _ =>
    if b ≠ Config.endMarker then some ⟨p, .desync, 1⟩
    else if crc8 (l :: p) ≠ c then some ⟨p, .crcMismatch, 1⟩
    else some ⟨p, .success, 1⟩

/-- `chk(L, p, s)` (R192). -/
def attemptChk (l : Byte) (p : List Byte) : List LinkItem → Option AttemptResult
  | [] => none
  | .timeout :: _ => some ⟨p, .timeout, 1⟩
  | .byte c :: r => (attemptEnd l p c r).map .more

/-- `data(L, p, s)` (R192), told by the number `n` of bytes still to come, `len(p) + n = L`. -/
def attemptData (l : Byte) : Nat → List Byte → List LinkItem → Option AttemptResult
  | 0, p, s => attemptChk l p s
  | _ + 1, _, [] => none
  | _ + 1, p, .timeout :: _ => some ⟨p, .timeout, 1⟩
  | n + 1, p, .byte b :: r => (attemptData l n (p ++ [b]) r).map .more

/-- `len_(s)` (R192). -/
def attemptLen : List LinkItem → Option AttemptResult
  | [] => none
  | .timeout :: _ => some ⟨[], .timeout, 1⟩
  | .byte b :: r =>
    if lengthLegal b then (attemptData b b.toNat [] r).map .more else some ⟨[], .desync, 1⟩

/-- `attempt(s) = seek(s)` (R192); `none` is "not finished". -/
def attempt : List LinkItem → Option AttemptResult
  | [] => none
  | .timeout :: _ => some ⟨[], .timeout, 1⟩
  | .byte b :: r =>
    if b = Config.startMarker then (attemptLen r).map .more else (attempt r).map .more

end Sys2Proof.Machine
end

