-- ==== Sys2Proof/Machine/Link.lean ====
section
/-! DEFINITION. What a run does at the Link's two ends, and the premise "lossless" (R226) over it. A premise of particular
claims, never a property of the machine (R224). -/

namespace Sys2Proof.Machine

/-- What one step does at an end of the Link. -/
inductive LinkEvent where
  /-- LINK_TX takes a byte from the encoder (R221) -/
  | taken (b : Byte)
  /-- a read ends in `Byte(b)` (R223) -/
  | delivered (b : Byte)
  /-- a read ends in `TimeoutSignal` (R223), by LINK_RX's answer or by the tick that finds the timer run out (R187) -/
  | timedOut
  deriving DecidableEq, Repr

/-- What the next step does at the Link, if it does anything there. An offer that meets no partner is no transfer (R220). -/
def State.linkEvent (s : State) : Option LinkEvent :=
  match s.moves with
  | [] => none
  | m :: _ =>
    match s.presented m with
    | none => none
    | some ev =>
      match decode ⟨s.enc.state, s.dec.state, ev⟩, ev with
      | .reject _, _ => none
      | .op _, .txTransfer => s.txData.map .taken
      | .op _, .rxTransfer b => some (.delivered b)
      | .op _, .timeoutSignal => some .timedOut
      | .op _, .tick => if s.dec.busy ∧ s.dec.tmr ≤ 1#32 then some .timedOut else none
      | .op _, .host _ => none
      | .op _, .rst => none

/-- What a run of `k` steps does at the Link, in order. -/
def linkEvents : Nat → State → List LinkEvent
  | 0, _ => []
  | k + 1, s =>
    s.linkEvent.toList ++
      match step s with
      | .next t => linkEvents k t
      | .fault _ => []
      | .refused _ => []

/-- The bytes taken and not yet delivered, oldest first, after `es`, where they were `q` before; `none` as soon as a read ends
otherwise than R226 has it: with a byte that is not the oldest undelivered one, or with a TimeoutSignal while there is
one. -/
def undelivered : List Byte → List LinkEvent → Option (List Byte)
  | q, [] => some q
  | q, .taken b :: es => undelivered (q ++ [b]) es
  | [], .delivered _ :: _ => none
  | a :: q, .delivered b :: es => if a = b then undelivered q es else none
  | [], .timedOut :: es => undelivered [] es
  | _ :: _, .timedOut :: _ => none

/-- The Link was lossless (R226) over the events `es`, and still is with `onOffer` to deliver: the bytes taken were delivered in
order, each once, none added and none dropped, those that are not delivered yet are on offer in order, and no read ended
or will end in a TimeoutSignal while one of them is undelivered. After the last of them TimeoutSignals may follow -/
def lossless (es : List LinkEvent) (onOffer : List LinkItem) : Prop :=
  ∃ (q : List Byte) (k : Nat),
    undelivered [] es = some q ∧ onOffer = q.map .byte ++ List.replicate k .timeout

end Sys2Proof.Machine
end

