-- ==== Sys2Proof/Machine/Pseudo.lean ====
section
/-! DEFINITION. The pseudo-operations (R106), each expanded into the moves of the agents that make its operations happen. -/

namespace Sys2Proof.Machine

/-- `CHECKSUM [b0, .., bn-1]` (R106). -/
def checksumMoves (bs : List Byte) : List Move :=
  .host .crcClr :: bs.map (fun b => .host (.crcByte b)) ++ [.host .crcRead]

/-- The host's part of `ENCODE [v0, .., vn-1]` (R106): clear, push each value, start. -/
def loadMoves (vs : List PushValue) : List Move :=
  .host .encClear :: vs.map (fun v => .host (.encPush v)) ++ [.host .encStart]

/-- `ENCODE [v0, .., vn-1]` (R106), with the `n + 4` transfers LINK_TX accepts; 256 values have no expansion (R144). -/
def encodeMoves (vs : List PushValue) : Option (List Move) :=
  if vs.length ≤ 255 then some (loadMoves vs ++ List.replicate (vs.length + 4) .linkTx) else none

/-- What drives an attempt (R106, `DECODE`): "decoder operations driven by `LINK_RX` and `TICKER`". -/
def isDriveMove : Move → Bool
  | .linkRx | .ticker => true
  | .host _ | .linkTx | .reset => false

/-- The machine after one move of an agent, where it goes on. -/
def State.makeMove (m : Move) (s : State) : Option State :=
  match step (s.withMoves [m]) with
  | .next t => some t
  | .fault _ => none
  | .refused _ => none

/-- Drive the decoder "until `dec_done`" (R106, `DECODE`): the moves made, of those at hand, and the state they lead to.
`none` where the moves at hand run out with the attempt not finished, or another agent moves among them. -/
def driveUntilDone : List Move → State → Option (List Move × State)
  | [], s => if s.decDone then some ([], s) else none
  | m :: ds, s =>
    if s.decDone then some ([], s)
    else if isDriveMove m then
      (s.makeMove m).bind fun t => (driveUntilDone ds t).map fun r => (m :: r.1, r.2)
    else none

/-- The read-out at the end of `DECODE` (R106): `DEC.RESULT`, then `DEC.RDBUF 0 .. n - 1`. -/
def readOutMoves (n : Nat) : List Move :=
  .host .decResult :: (List.range n).map (fun i => .host (.decRdbuf (BitVec.ofNat 8 i)))

/-- `DECODE` (R106) from the state `s`, LINK_RX and TICKER moving as in `ds` for as long as it takes: `DEC.START`, those moves
until `dec_done`, and the read-out with `rx_cnt` as it is then. -/
def decodeExpansion (ds : List Move) (s : State) : Option (List Move) :=
  (s.makeMove (.host .decStart)).bind fun t => (driveUntilDone ds t).map fun r =>
    .host .decStart :: r.1 ++ readOutMoves r.2.dec.rxCnt.toNat

/-- The moves of one attempt whose `n` reads LINK_RX answers with no tick between them: `DEC.START` and `n` of its moves. -/
def decodeMoves (n : Nat) : List Move :=
  .host .decStart :: List.replicate n .linkRx

/-- `SETTIMEOUT t` (R106). -/
def setTimeoutMoves (t : Ticks) : List Move :=
  [.host (.decSetTmo t)]

end Sys2Proof.Machine
end

