-- ==== Sys2Proof/Safety.lean ====
section
/-! DEFINITION. What holds in every state a run reaches (R44, R45, R245), which unit an operation belongs to (R98, R254),
runs, the decoder's edges, and what it is to recover a payload (R193). -/

namespace Sys2Proof.Machine

/-- The cells of a buffer lie below its depth (R60) and are in canonical form. -/
abbrev bufferInv (depth : Nat) (m : Memory) : Prop :=
  Memory.wf m ∧ ∀ c ∈ m, c.1 < depth

/-- `crc8([tx_cnt] ++ TXBUF[0 .. n))`. -/
def Enc.crcUpTo (e : Enc) (n : Nat) : Byte := crc8 (e.txCnt :: Memory.bytes e.txbuf n)

/-- The encoder's invariant (R44), with what its sequencer says of the registers R44 leaves out: in `EmitStart` and
`EmitLen` they are as `ENC.START` set them, in `EmitEnd` as in `EmitChecksum`. -/
def Enc.inv (e : Enc) : Prop :=
  bufferInv Config.txbufDepth e.txbuf ∧ Memory.written e.txbuf e.txCnt.toNat = true ∧
  match e.state with
  | .idle => True
  | .emitStart | .emitLen => e.txIdx = 0x00#8 ∧ e.crc = 0x00#8
  | .emitPayload => e.txIdx.toNat < e.txCnt.toNat ∧ e.crc = e.crcUpTo e.txIdx.toNat
  | .emitChecksum | .emitEnd => e.txIdx = e.txCnt ∧ e.crc = e.crcUpTo e.txCnt.toNat

/-- `crc8([rx_len] ++ RXBUF[0 .. rx_cnt))`. -/
def Dec.crcSoFar (d : Dec) : Byte := crc8 (d.rxLen :: d.payload)

/-- The registers as `DEC.START` leaves them: nothing of a frame is collected (R45 d, the "-" entries of R245). -/
def Dec.nothingCollected (d : Dec) : Prop :=
  d.rxRem = 0x00#8 ∧ d.rxCnt = 0x00#8 ∧ d.rxChk = 0x00#8 ∧ d.crc = 0x00#8

/-- A payload being collected or collected whole, for a legal length (R45 a, b, c). -/
def Dec.collecting (d : Dec) : Prop :=
  1 ≤ d.rxLen.toNat ∧ d.rxLen.toNat ≤ Config.lenMax ∧
  d.rxCnt.toNat + d.rxRem.toNat = d.rxLen.toNat ∧ d.crc = d.crcSoFar

/-- The whole payload is collected (R45 b). -/
def Dec.collected (d : Dec) : Prop := d.collecting ∧ d.rxRem = 0x00#8

/-- What `Done` leaves readable, by status (the table of R245). -/
def Dec.doneInv (d : Dec) : Prop :=
  match d.status with
  | .success => d.collected ∧ d.crc = d.rxChk
  | .crcMismatch => d.collected ∧ d.crc ≠ d.rxChk
  | .rangeError => False
  | .desync => (d.nothingCollected ∧ lengthLegal d.rxLen = false) ∨ d.collected
  | .timeout => (d.nothingCollected ∧ d.rxLen = 0x00#8) ∨ (d.collecting ∧ d.rxChk = 0x00#8)
  | .noOutcome => False

/-- The decoder's invariant (R45), `Done` included (R45 f, R245). -/
def Dec.inv (d : Dec) : Prop :=
  bufferInv Config.rxbufDepth d.rxbuf ∧ Memory.written d.rxbuf d.rxCnt.toNat = true ∧
  d.rxCnt.toNat ≤ Config.rxbufDepth ∧
  match d.state with
  | .idle | .seekStart | .readLength => d.nothingCollected ∧ d.rxLen = 0x00#8 ∧ d.status = .noOutcome
  | .readPayload => d.collecting ∧ 1 ≤ d.rxRem.toNat ∧ d.rxChk = 0x00#8 ∧ d.status = .noOutcome
  | .readChecksum => d.collected ∧ d.rxChk = 0x00#8 ∧ d.status = .noOutcome
  | .readEnd => d.collected ∧ d.status = .noOutcome
  | .done => d.doneInv

/-- The invariant of the machine (R44, R45). -/
def State.Inv (s : State) : Prop := s.enc.inv ∧ s.dec.inv

/-- The units of the core (R2, R3), and the whole of it for the reset. -/
inductive CoreUnit where
  | crc0
  | enc
  | dec
  | all
  deriving DecidableEq, Repr

/-- The unit an operation belongs to (R98). -/
def unitOf : Instr → CoreUnit
  | .crcClr | .crcByte _ | .crcRead => .crc0
  | .encClear | .encPush _ | .encStart => .enc
  | .encEmitStart | .encEmitLen | .encEmitData | .encEmitChk | .encEmitEnd => .enc
  | .decStart | .decSeekHit | .decSeekSkip _ | .decSeekTmo => .dec
  | .decLenOk _ | .decLenBad _ | .decLenTmo | .decDataByte _ | .decDataTmo => .dec
  | .decChkByte _ | .decChkTmo | .decEndOk | .decEndBad _ | .decEndTmo => .dec
  | .decTick | .decSetTmo _ | .decResult | .decRdbuf _ => .dec
  | .sysReset => .all

/-- `k` steps, stopping at the first fault or refusal: `Host.Core.run` of this machine, over its own types. -/
def run : Nat → State → Host.Outcome State Fault Refusal
  | 0, s => .next s
  | k + 1, s =>
    match step s with
    | .next t => run k t
    | .fault f => .fault f
    | .refused r => .refused r

/-- Run `i`, then `j`. -/
def execThen (i j : Instr) (s : State) : Host.Outcome State Fault Refusal :=
  match exec i s with
  | .next t => exec j t
  | .fault f => .fault f
  | .refused r => .refused r

/-- The edges of the decoder's sequencer (the table of R191): the states before and after, and the status before and after.
Where the table's status column holds "-" the status stays. -/
def decEdge (a b : DecState) (before after : DecStatus) : Bool :=
  match a, b with
  | .idle, .seekStart | .done, .seekStart => after == .noOutcome
  | .seekStart, .readLength | .seekStart, .seekStart => after == before
  | .readLength, .readPayload | .readPayload, .readPayload => after == before
  | .readPayload, .readChecksum | .readChecksum, .readEnd => after == before
  | .seekStart, .done | .readPayload, .done | .readChecksum, .done => after == .timeout
  | .readLength, .done => after == .timeout || after == .desync
  | .readEnd, .done => after == .success || after == .crcMismatch || after == .desync
  | _, .idle => after == .noOutcome
  | _, _ => false

/-- The host's commands to the encoder (R141, R143, R145). -/
def isEncCommand : Move → Bool
  | .host .encClear | .host (.encPush _) | .host .encStart => true
  | .host .crcClr | .host (.crcByte _) | .host .crcRead => false
  | .host .decStart | .host (.decSetTmo _) | .host .decResult | .host (.decRdbuf _) => false
  | .linkTx | .linkRx | .ticker | .reset => false

/-- The outcome is the values `vs` as the encoder clamps them, and so the values themselves where they lie in `0 .. 255`
(R193 a). -/
def Dec.recovers (vs : List PushValue) (d : Dec) : Prop :=
  d.state = .done ∧ d.status = .success ∧ d.payload = vs.map (fun v => clamp (sext v)) ∧
  ((∀ v ∈ vs, 0 ≤ sext v ∧ sext v ≤ 255) → d.payload.map (fun b => (b.toNat : Int)) = vs.map sext)

end Sys2Proof.Machine
end

