-- ==== Sys2Proof/Certificates/Slice0/Obligations.lean ====
section
/-! DEFINITION. The statements for the provers. Each docstring names the rule of spec/ it formalises, and where a clause is
the model's choice the log entry that says so. A result is written as the whole next state, so that it is the
operation's frame and its completion as well: every register, cell, stream and counter that is not named keeps its
value. -/

open Sys2Proof Sys2Proof.Machine

/-! The checksum (R120 to R129). -/

/-- R121 in numbers, R122 as eight iterations, R123 from the empty sequence and by the last byte. -/
def Obligations.ChecksumFollowsTheAlgorithm : Prop :=
  (∀ a : Byte, (crcBit a).toNat =
    if a.getLsbD 7 then ((2 * a.toNat) ^^^ 0x07#8) % 256 else (2 * a.toNat) % 256) ∧
  (∀ a b : Byte, crcByte a b = crcBit^[8] (a ^^^ b)) ∧
  crc8 [] = 0x00#8 ∧
  (∀ (s : List Byte) (b : Byte), crc8 (s ++ [b]) = crcByte (crc8 s) b)

/-- R128: (a) the byte step depends on `a ^ b` only, (b) it is linear with the generators listed, (c) it is the parallel
logic, (d) it is a bijection. -/
def Obligations.ChecksumEquivalentForms : Prop :=
  (∀ a b : Byte, crcByte a b = crcByte 0x00#8 (a ^^^ b)) ∧
  (∀ x y : Byte, crcByte 0x00#8 (x ^^^ y) = crcByte 0x00#8 x ^^^ crcByte 0x00#8 y) ∧
  crcByte 0x00#8 0x00#8 = 0x00#8 ∧
  [0x01#8, 0x02#8, 0x04#8, 0x08#8, 0x10#8, 0x20#8, 0x40#8, 0x80#8].map (crcByte 0x00#8) =
    [0x07#8, 0x0E#8, 0x1C#8, 0x38#8, 0x70#8, 0xE0#8, 0xC7#8, 0x89#8] ∧
  (∀ a b : Byte,
    let d := fun i => (a ^^^ b).getLsbD i
    let n := fun i => (crcByte a b).getLsbD i
    n 0 = (d 7 ^^ d 6 ^^ d 0) ∧
    n 1 = (d 6 ^^ d 1 ^^ d 0) ∧
    n 2 = (d 6 ^^ d 2 ^^ d 1 ^^ d 0) ∧
    n 3 = (d 7 ^^ d 3 ^^ d 2 ^^ d 1) ∧
    n 4 = (d 4 ^^ d 3 ^^ d 2) ∧
    n 5 = (d 5 ^^ d 4 ^^ d 3) ∧
    n 6 = (d 6 ^^ d 5 ^^ d 4) ∧
    n 7 = (d 7 ^^ d 6 ^^ d 5)) ∧
  Function.Bijective (crcByte 0x00#8)

/-- R129 b to f: order sensitivity with its witness, every single-bit error of a covered byte detected, the zero residue,
leading zeros unseen, linearity over sequences of one length. -/
def Obligations.ChecksumProperties : Prop :=
  (crc8 [0x01#8, 0x02#8] = 0x1B#8 ∧ crc8 [0x02#8, 0x01#8] = 0x2D#8) ∧
  (∀ (s t : List Byte) (b : Byte) (k : Nat), k < 8 →
    crc8 (s ++ (b ^^^ (0x01#8 <<< k)) :: t) ≠ crc8 (s ++ b :: t)) ∧
  (∀ s : List Byte, crc8 (s ++ [crc8 s]) = 0x00#8) ∧
  (∀ s : List Byte, crc8 (0x00#8 :: s) = crc8 s) ∧
  (∀ s t : List Byte, s.length = t.length →
    crc8 (List.zipWith (fun x y => x ^^^ y) s t) = crc8 s ^^^ crc8 t)

/-! The operations of CRC0. -/

/-- R124. -/
def Obligations.CrcClearZeroesTheAccumulator : Prop :=
  ∀ s : State, exec .crcClr s = .next { s with crc0 := 0x00#8 }

/-- R125. -/
def Obligations.CrcByteStepsTheAccumulator : Prop :=
  ∀ (s : State) (b : Byte), exec (.crcByte b) s = .next { s with crc0 := crcByte s.crc0 b }

/-- `CRC.READ` gives the host `crc0` and writes no register (40_crc_engine.md section 2). That the value read is kept in
`crcSamples` is the model's choice (log 5). -/
def Obligations.CrcReadGivesTheAccumulator : Prop :=
  ∀ s : State, exec .crcRead s = .next { s with crcSamples := s.crcSamples ++ [s.crc0] }

/-- The corner case of `CRC.READ` and the pseudo-operation `CHECKSUM` (30_encoding.md section 6): clear, the bytes, read,
gives `crc8` of the bytes. That the value read is kept in `crcSamples` is the model's choice (log 5). -/
def Obligations.ChecksumCommandsReadCrc8 : Prop :=
  ∀ (s : State) (bs : List Byte) (rest : List Move), s.moves = checksumMoves bs ++ rest →
    run (bs.length + 2) s =
      .next { s with crc0 := crc8 bs, moves := rest, crcSamples := s.crcSamples ++ [crc8 bs] }

/-! The encoder. -/

/-- R142. -/
def Obligations.ClampSaturates : Prop :=
  ∀ v : Int, (v < 0 → clamp v = 0x00#8) ∧ (255 < v → clamp v = 0xFF#8) ∧
    (0 ≤ v → v ≤ 255 → ((clamp v).toNat : Int) = v)

/-- R141: in `Idle` the count is zeroed, `TXBUF` is not erased and `enc_push_ready` becomes 1; else nothing (R152). -/
def Obligations.EncoderClearEmptiesInIdle : Prop :=
  ∀ s : State,
    (s.enc.state = .idle →
      exec .encClear s = .next { s with enc := { s.enc with txCnt := 0x00#8 } } ∧
      State.encPushReady { s with enc := { s.enc with txCnt := 0x00#8 } } = true) ∧
    (s.enc.state ≠ .idle → exec .encClear s = .next s)

/-- R143: in `Idle` with fewer than 255 values loaded, the clamped value is written at index `tx_cnt`, every other cell reads
as before and the count rises by one, `enc_push_ready` falling when it reaches 255; else nothing. -/
def Obligations.EncoderPushStoresTheClampedValue : Prop :=
  ∀ (s : State) (v : PushValue),
    (s.enc.state = .idle → s.enc.txCnt.toNat < 255 → ∃ m : Memory,
      exec (.encPush v) s = .next { s with enc := { s.enc with txCnt := s.enc.txCnt + 1#8, txbuf := m } } ∧
      (s.enc.txCnt + 1#8).toNat = s.enc.txCnt.toNat + 1 ∧
      Memory.read? m s.enc.txCnt.toNat = some (clamp v.toInt) ∧
      (∀ a, a ≠ s.enc.txCnt.toNat → Memory.read? m a = Memory.read? s.enc.txbuf a) ∧
      State.encPushReady { s with enc := { s.enc with txCnt := s.enc.txCnt + 1#8, txbuf := m } } =
        decide (s.enc.txCnt.toNat + 1 < 255)) ∧
    (s.enc.state ≠ .idle ∨ s.enc.txCnt.toNat = 255 → exec (.encPush v) s = .next s)

/-- R145: in `Idle` the frame begins, with the index and the accumulator zeroed; else nothing (R152). -/
def Obligations.EncoderStartBeginsAFrame : Prop :=
  ∀ s : State,
    (s.enc.state = .idle →
      exec .encStart s = .next { s with enc := { s.enc with state := .emitStart, txIdx := 0x00#8, crc := 0x00#8 } }) ∧
    (∀ t, s.enc.state = .idle → exec .encStart s = .next t →
      t.encBusy = true ∧ t.txValid = true ∧ t.encPushReady = false) ∧
    (s.enc.state ≠ .idle → exec .encStart s = .next s)

/-- R146, R149, R150: the start marker, the checksum, the end marker. -/
def Obligations.EncoderEmitsMarkersAndChecksum : Prop :=
  ∀ s : State,
    (s.enc.state = .emitStart → exec .encEmitStart s =
      .next { s with txStream := s.txStream ++ [0xAA#8], enc := { s.enc with state := .emitLen } }) ∧
    (s.enc.state = .emitChecksum → exec .encEmitChk s =
      .next { s with txStream := s.txStream ++ [s.enc.crc], enc := { s.enc with state := .emitEnd } }) ∧
    (s.enc.state = .emitEnd → exec .encEmitEnd s =
      .next { s with txStream := s.txStream ++ [0x55#8], enc := { s.enc with state := .idle, txCnt := 0x00#8 } } ∧
      (∀ t, exec .encEmitEnd s = .next t → t.encBusy = false ∧ t.txValid = false ∧ t.encPushReady = true))

/-- R147. -/
def Obligations.EncoderEmitsTheLength : Prop :=
  ∀ s : State, s.enc.state = .emitLen → exec .encEmitLen s =
    .next { s with
      txStream := s.txStream ++ [s.enc.txCnt]
      enc := { s.enc with
        crc := crcByte 0x00#8 s.enc.txCnt
        state := if s.enc.txCnt.toNat = 0 then .emitChecksum else .emitPayload } }

/-- R148: the byte at index `tx_idx` goes to the Link and into the accumulator, and the index moves on. The premises are
R44's: the index is below 255 and the cell has been written (`UnwrittenCellsGiveFreeBytes` has the other cells). -/
def Obligations.EncoderEmitsThePayloadByte : Prop :=
  ∀ (s : State) (b : Byte), s.enc.state = .emitPayload → s.enc.txIdx.toNat < 255 →
    Memory.read? s.enc.txbuf s.enc.txIdx.toNat = some b →
    exec .encEmitData s =
      .next { s with
        txStream := s.txStream ++ [b]
        enc := { s.enc with
          crc := crcByte s.enc.crc b
          txIdx := s.enc.txIdx + 1#8
          state := if s.enc.txIdx.toNat + 1 = s.enc.txCnt.toNat then .emitChecksum else .emitPayload } }

/-! The decoder. -/

/-- R171: in `Idle` and `Done` the attempt begins and the earlier outcome is erased, `RXBUF` and `dec_tmo_cfg` kept, with the
flags it names; else nothing (R186). -/
def Obligations.DecoderStartBeginsAnAttempt : Prop :=
  ∀ s : State,
    (s.dec.state = .idle ∨ s.dec.state = .done →
      exec .decStart s = .next { s with
        dec := { s.dec with
          state := .seekStart, status := .noOutcome, rxLen := 0x00#8, rxRem := 0x00#8, rxCnt := 0x00#8
          rxChk := 0x00#8, crc := 0x00#8, tmr := s.dec.tmoCfg } } ∧
      (∀ t, exec .decStart s = .next t → t.decBusy = true ∧ t.rxReady = true ∧ t.decDone = false)) ∧
    (s.dec.state ≠ .idle → s.dec.state ≠ .done → exec .decStart s = .next s)

/-- R172, R173: the start marker moves on to the length, any other byte leaves no trace, and either way the timer is
loaded afresh. -/
def Obligations.DecoderSeeksTheStartMarker : Prop :=
  ∀ s : State, s.dec.state = .seekStart →
    exec .decSeekHit s = .next { s with dec := { s.dec with state := .readLength, tmr := s.dec.tmoCfg } } ∧
    (∀ b : Byte, b ≠ 0xAA#8 →
      exec (.decSeekSkip b) s = .next { s with dec := { s.dec with tmr := s.dec.tmoCfg } })

/-- R175, R176. -/
def Obligations.DecoderAcceptsOrRejectsTheLength : Prop :=
  ∀ (s : State) (b : Byte), s.dec.state = .readLength →
    (1 ≤ b.toNat → b.toNat ≤ 200 →
      exec (.decLenOk b) s = .next { s with
        dec := { s.dec with
          rxLen := b, rxRem := b, rxCnt := 0x00#8, crc := crcByte 0x00#8 b, state := .readPayload
          tmr := s.dec.tmoCfg } }) ∧
    (b.toNat = 0 ∨ 201 ≤ b.toNat →
      exec (.decLenBad b) s =
        .next { s with dec := { s.dec with rxLen := b, status := .desync, state := .done } } ∧
      (∀ t, exec (.decLenBad b) s = .next t → t.decBusy = false ∧ t.decDone = true))

/-- R178: the byte is written at index `rx_cnt`, every other cell reads as before, it is counted and folded into the
accumulator. The premise on the count is R45's
(`AccessOutsideABufferReachesNoCell` has the other counts). -/
def Obligations.DecoderStoresThePayloadByte : Prop :=
  ∀ (s : State) (b : Byte), s.dec.state = .readPayload → s.dec.rxCnt.toNat < 200 → ∃ m : Memory,
    exec (.decDataByte b) s = .next { s with
      dec := { s.dec with
        rxbuf := m, rxCnt := s.dec.rxCnt + 1#8, rxRem := s.dec.rxRem - 1#8, crc := crcByte s.dec.crc b
        state := if s.dec.rxRem.toNat = 1 then .readChecksum else .readPayload
        tmr := s.dec.tmoCfg } } ∧
    (s.dec.rxCnt + 1#8).toNat = s.dec.rxCnt.toNat + 1 ∧
    Memory.read? m s.dec.rxCnt.toNat = some b ∧
    (∀ a, a ≠ s.dec.rxCnt.toNat → Memory.read? m a = Memory.read? s.dec.rxbuf a)

/-- R180. -/
def Obligations.DecoderRetainsTheChecksum : Prop :=
  ∀ (s : State) (b : Byte), s.dec.state = .readChecksum →
    exec (.decChkByte b) s =
      .next { s with dec := { s.dec with rxChk := b, state := .readEnd, tmr := s.dec.tmoCfg } }

/-- R182, R183: with the end marker, `CrcMismatch` where the checksums differ, else `RangeError` where a payload byte is
outside `0 .. 255` (which no byte is, R185), else `Success`; with any other byte `Desync` and no comparison. -/
def Obligations.DecoderJudgesAtTheEndMarker : Prop :=
  ∀ s : State, s.dec.state = .readEnd →
    exec .decEndOk s = .next { s with
      dec := { s.dec with
        status :=
          if s.dec.crc ≠ s.dec.rxChk then .crcMismatch
          else if ∃ b ∈ s.dec.payload, 255 < b.toNat then .rangeError
          else .success
        state := .done } } ∧
    (s.dec.crc = s.dec.rxChk →
      exec .decEndOk s = .next { s with dec := { s.dec with status := .success, state := .done } }) ∧
    (∀ b : Byte, b ≠ 0x55#8 →
      exec (.decEndBad b) s = .next { s with dec := { s.dec with status := .desync, state := .done } }) ∧
    (∀ (b : Byte) (t : State), exec .decEndOk s = .next t ∨ b ≠ 0x55#8 ∧ exec (.decEndBad b) s = .next t →
      t.decBusy = false ∧ t.decDone = true)

/-- R174, R177, R179, R181, R184: a TimeoutSignal ends the attempt with `Timeout`, in `ReadEnd` with `Desync`, and every other
register and `RXBUF` keep their values; `dec_busy` falls and `dec_done` rises. -/
def Obligations.TimeoutSignalsEndTheAttempt : Prop :=
  ∀ s : State,
    (s.dec.state = .seekStart →
      exec .decSeekTmo s = .next { s with dec := { s.dec with status := .timeout, state := .done } }) ∧
    (s.dec.state = .readLength →
      exec .decLenTmo s = .next { s with dec := { s.dec with status := .timeout, state := .done } }) ∧
    (s.dec.state = .readPayload →
      exec .decDataTmo s = .next { s with dec := { s.dec with status := .timeout, state := .done } }) ∧
    (s.dec.state = .readChecksum →
      exec .decChkTmo s = .next { s with dec := { s.dec with status := .timeout, state := .done } }) ∧
    (s.dec.state = .readEnd →
      exec .decEndTmo s = .next { s with dec := { s.dec with status := .desync, state := .done } }) ∧
    (∀ st, State.decBusy { s with dec := { s.dec with status := st, state := .done } } = false ∧
      State.decDone { s with dec := { s.dec with status := st, state := .done } } = true)

/-- R187: outside the reading states nothing (R186); with the timer at 2 or more it falls by one; at 0 or 1 the tick is the
`.TMO` operation of the current state. So a read ends at the `N`-th tick if no byte comes, `N` being the timer's value and
0 behaving as 1, and before that tick the decoder is where it was. -/
def Obligations.TickCountsDownOrTimesOut : Prop :=
  ∀ s : State,
    (s.dec.state = .idle ∨ s.dec.state = .done → exec .decTick s = .next s) ∧
    (s.dec.busy = true → 2 ≤ s.dec.tmr.toNat →
      exec .decTick s = .next { s with dec := { s.dec with tmr := s.dec.tmr - 1#32 } }) ∧
    (s.dec.busy = true → s.dec.tmr.toNat ≤ 1 →
      exec .decTick s = .next { s with
        dec := { s.dec with
          status := if s.dec.state = .readEnd then .desync else .timeout
          state := .done } }) ∧
    (s.dec.tmr.toNat ≤ 1 →
      (s.dec.state = .seekStart → exec .decTick s = exec .decSeekTmo s) ∧
      (s.dec.state = .readLength → exec .decTick s = exec .decLenTmo s) ∧
      (s.dec.state = .readPayload → exec .decTick s = exec .decDataTmo s) ∧
      (s.dec.state = .readChecksum → exec .decTick s = exec .decChkTmo s) ∧
      (s.dec.state = .readEnd → exec .decTick s = exec .decEndTmo s)) ∧
    (∀ rest : List Move, s.dec.busy = true →
      s.moves = List.replicate (max 1 s.dec.tmr.toNat) .ticker ++ rest →
      (∀ j, j < max 1 s.dec.tmr.toNat → ∃ u, run j s = .next u ∧
        u.dec = { s.dec with tmr := s.dec.tmr - BitVec.ofNat 32 j }) ∧
      (∃ t, run (max 1 s.dec.tmr.toNat) s = .next t ∧ t.moves = rest ∧ t.rxStream = s.rxStream ∧
        t.dec.state = .done ∧ t.dec.status = if s.dec.state = .readEnd then .desync else .timeout))

/-- R188: the configuration is written in `Idle` and `Done`, the running timer is not touched; else nothing (R186). -/
def Obligations.SetTimeoutOnlyBetweenAttempts : Prop :=
  ∀ (s : State) (t : Ticks),
    (s.dec.state = .idle ∨ s.dec.state = .done →
      exec (.decSetTmo t) s = .next { s with dec := { s.dec with tmoCfg := t } }) ∧
    (s.dec.state ≠ .idle → s.dec.state ≠ .done → exec (.decSetTmo t) s = .next s)

/-- `DEC.RESULT` (42_frame_decoder.md section 10): the host gets the five result ports and no register is written; while a
read is in progress the model refuses. That the sample is kept in `decSamples` is the model's choice (log 5), and that
`Idle` may be read is U4's permission (log 9). -/
def Obligations.ResultIsReadBetweenAttempts : Prop :=
  ∀ s : State,
    (s.dec.state = .idle ∨ s.dec.state = .done →
      exec .decResult s = .next { s with
        decSamples := s.decSamples ++
          [.result s.dec.status s.dec.rxCnt s.dec.rxLen s.dec.rxChk s.dec.crc] }) ∧
    (s.dec.busy = true → exec .decResult s = .refused .resultsInMotion)

/-- `DEC.RDBUF i` (42_frame_decoder.md section 10): in `Done` and below `rx_cnt` the host gets the cell's byte and no register
is written; past `rx_cnt`, and outside `Done`, the model refuses (log 10). The sample is kept in `decSamples` (log 5). A
cell nothing has written is `UnwrittenCellsGiveFreeBytes`'s. -/
def Obligations.PayloadIsReadInDone : Prop :=
  ∀ (s : State) (i : Byte),
    (∀ b : Byte, s.dec.state = .done → i.toNat < s.dec.rxCnt.toNat → i.toNat < 200 →
      Memory.read? s.dec.rxbuf i.toNat = some b →
      exec (.decRdbuf i) s = .next { s with decSamples := s.decSamples ++ [.cell i b] }) ∧
    (s.dec.state = .done → s.dec.rxCnt.toNat ≤ i.toNat ∨ 200 ≤ i.toNat →
      exec (.decRdbuf i) s = .refused .noPayloadByte) ∧
    (s.dec.state ≠ .done → exec (.decRdbuf i) s = .refused .bufferInMotion)

/-- The model's choice (log 7): a cell nothing has written gives a byte of which nothing is said, counted in `txFree` and
`rxFree`, and the operation does all else it does. Only states no run reaches read one (R44 e, 20_memory.md section 1). -/
def Obligations.UnwrittenCellsGiveFreeBytes : Prop :=
  ∀ s : State,
    (s.enc.state = .emitPayload → s.enc.txIdx.toNat < 255 →
      Memory.read? s.enc.txbuf s.enc.txIdx.toNat = none → ∃ b : Byte,
      exec .encEmitData s =
        .next { s with
          txStream := s.txStream ++ [b]
          txFree := s.txFree + 1
          enc := { s.enc with
            crc := crcByte s.enc.crc b
            txIdx := s.enc.txIdx + 1#8
            state := if s.enc.txIdx.toNat + 1 = s.enc.txCnt.toNat then .emitChecksum else .emitPayload } }) ∧
    (∀ i : Byte, s.dec.state = .done → i.toNat < s.dec.rxCnt.toNat → i.toNat < 200 →
      Memory.read? s.dec.rxbuf i.toNat = none → ∃ b : Byte,
      exec (.decRdbuf i) s =
        .next { s with decSamples := s.decSamples ++ [.cell i b], rxFree := s.rxFree + 1 })

/-! Reset. -/

/-- R270, R271: every register takes its reset value, the buffers become unspecified (whatever the model keeps in them, both
counts are 0) and the Link is not touched. -/
def Obligations.ResetSetsEveryRegister : Prop :=
  ∀ s : State, ∃ m m' : Memory,
    exec .sysReset s = .next { s with
      crc0 := 0x00#8
      enc := { state := .idle, txCnt := 0x00#8, txIdx := 0x00#8, crc := 0x00#8, txbuf := m }
      dec := {
        state := .idle, status := .noOutcome, rxLen := 0x00#8, rxRem := 0x00#8, rxCnt := 0x00#8, rxChk := 0x00#8
        crc := 0x00#8, tmr := 0#32, tmoCfg := 0#32, rxbuf := m' } } ∧
    (∀ t, exec .sysReset s = .next t →
      t.encBusy = false ∧ t.encPushReady = true ∧ t.txValid = false ∧
      t.decBusy = false ∧ t.decDone = false ∧ t.rxReady = false)

/-- R46: the table of reset values with the codes of R22, R28 and R29, and the derived flags. The buffers are unspecified. -/
def Obligations.ResetStateHoldsTheTable : Prop :=
  let s := State.reset
  s.crc0 = 0x00#8 ∧ encStateCode s.enc.state = 0 ∧ s.enc.txCnt = 0 ∧ s.enc.txIdx = 0 ∧ s.enc.crc = 0x00#8 ∧
  decStateCode s.dec.state = 0 ∧ decStatusCode s.dec.status = 7 ∧ s.dec.rxLen = 0 ∧ s.dec.rxRem = 0 ∧
  s.dec.rxCnt = 0 ∧ s.dec.rxChk = 0x00#8 ∧ s.dec.crc = 0x00#8 ∧ s.dec.tmr = 0 ∧ s.dec.tmoCfg = 0 ∧
  s.encBusy = false ∧ s.encPushReady = true ∧ s.txValid = false ∧
  s.decBusy = false ∧ s.decDone = false ∧ s.rxReady = false

/-! What the model adds to the operations (logs 8, 11). -/

/-- The model's choice (log 8): at an index that is no cell of a buffer (20_memory.md section 1) a read gives a free byte and a
write stores nothing, and the operation does all else it does. Only states no run reaches have such an index (R44, R45). -/
def Obligations.AccessOutsideABufferReachesNoCell : Prop :=
  ∀ s : State,
    (s.enc.state = .emitPayload → 255 ≤ s.enc.txIdx.toNat → ∃ b : Byte,
      exec .encEmitData s =
        .next { s with
          txStream := s.txStream ++ [b]
          txFree := s.txFree + 1
          enc := { s.enc with
            crc := crcByte s.enc.crc b
            txIdx := s.enc.txIdx + 1#8
            state := if s.enc.txIdx + 1#8 = s.enc.txCnt then .emitChecksum else .emitPayload } }) ∧
    (∀ b : Byte, s.dec.state = .readPayload → 200 ≤ s.dec.rxCnt.toNat →
      exec (.decDataByte b) s = .next { s with
        dec := { s.dec with
          rxCnt := s.dec.rxCnt + 1#8, rxRem := s.dec.rxRem - 1#8, crc := crcByte s.dec.crc b
          state := if s.dec.rxRem.toNat = 1 then .readChecksum else .readPayload
          tmr := s.dec.tmoCfg } })

/-- The model's choice (log 11): an operation whose selecting state is not the unit's state, or whose byte does not select
it, changes nothing; the step never runs one. -/
def Obligations.UnselectedOperationsDoNothing : Prop :=
  ∀ (s : State) (b : Byte),
    (s.enc.state ≠ .emitStart → exec .encEmitStart s = .next s) ∧
    (s.enc.state ≠ .emitLen → exec .encEmitLen s = .next s) ∧
    (s.enc.state ≠ .emitPayload → exec .encEmitData s = .next s) ∧
    (s.enc.state ≠ .emitChecksum → exec .encEmitChk s = .next s) ∧
    (s.enc.state ≠ .emitEnd → exec .encEmitEnd s = .next s) ∧
    (s.dec.state ≠ .seekStart → exec .decSeekHit s = .next s ∧ exec .decSeekTmo s = .next s) ∧
    (s.dec.state ≠ .seekStart ∨ b = 0xAA#8 → exec (.decSeekSkip b) s = .next s) ∧
    (s.dec.state ≠ .readLength → exec .decLenTmo s = .next s) ∧
    (s.dec.state ≠ .readLength ∨ b.toNat = 0 ∨ 200 < b.toNat → exec (.decLenOk b) s = .next s) ∧
    (s.dec.state ≠ .readLength ∨ (1 ≤ b.toNat ∧ b.toNat ≤ 200) → exec (.decLenBad b) s = .next s) ∧
    (s.dec.state ≠ .readPayload → exec (.decDataByte b) s = .next s ∧ exec .decDataTmo s = .next s) ∧
    (s.dec.state ≠ .readChecksum → exec (.decChkByte b) s = .next s ∧ exec .decChkTmo s = .next s) ∧
    (s.dec.state ≠ .readEnd → exec .decEndOk s = .next s ∧ exec .decEndTmo s = .next s) ∧
    (s.dec.state ≠ .readEnd ∨ b = 0x55#8 → exec (.decEndBad b) s = .next s)

/-! The step and the agents outside. -/

/-- One step: the next move's event, decoded in the two sequencers' states, runs the operation it selects, on the state with
the move spent and, for LINK_RX, the item consumed. That the moves stand in State is the model's choice (log 1). -/
def Obligations.StepRunsTheDecodedInstruction : Prop :=
  ∀ (s : State) (m : Move) (ms : List Move) (ev : Event) (i : Instr),
    s.moves = m :: ms → s.presented m = some ev → decode ⟨s.enc.state, s.dec.state, ev⟩ = .op i →
    step s = exec i { s with moves := ms, rxStream := if m = .linkRx then s.rxStream.tail else s.rxStream }

/-- R186 with R220 and R225 for the byte on offer: in `Idle` and `Done` nothing is taken and the item stays on offer; that the
move is spent is the model's choice (logs 1, 2). A transfer on `tx` with the encoder in `Idle` is none either. -/
def Obligations.OffersThatMeetNoPartnerAreNotTaken : Prop :=
  ∀ (s : State) (ms : List Move),
    (s.moves = .linkRx :: ms → s.dec.busy = false → step s = .next { s with moves := ms }) ∧
    (s.moves = .linkTx :: ms → s.enc.state = .idle → step s = .next { s with moves := ms })

/-- The model's choice (log 4): with no move left, or with nothing on offer when LINK_RX moves, nothing happens; this is how
the model writes the waits of R153 and R228. -/
def Obligations.WaitingChangesNothing : Prop :=
  ∀ (s : State) (ms : List Move),
    (s.moves = [] → step s = .next s) ∧
    (s.moves = .linkRx :: ms → s.rxStream = [] → step s = .next { s with moves := ms })

/-- A read consumes exactly the item that ends it, and no later one (20_memory.md section 3, 43_link_and_host.md section 3),
in every reading state; the encoder, `crc0` and the TX stream do not move. That the items and moves stand in State is the
model's choice (logs 1, 2). -/
def Obligations.EveryReadConsumesOneItem : Prop :=
  ∀ (s : State) (ms : List Move) (x : LinkItem) (r : List LinkItem),
    s.moves = .linkRx :: ms → s.rxStream = x :: r → s.dec.busy = true →
    ∃ t, step s = .next t ∧ t.rxStream = r ∧ t.moves = ms ∧
      t.enc = s.enc ∧ t.crc0 = s.crc0 ∧ t.txStream = s.txStream

/-- A transfer on `tx` takes exactly the byte `tx_data` shows (10_state.md section 3, 43_link_and_host.md section 2), once and
at the end of the TX stream; the decoder, `crc0` and the RX stream do not move. That the moves stand in State is the model's
choice (log 1). -/
def Obligations.EveryTransferTakesTxData : Prop :=
  ∀ (s : State) (ms : List Move) (b : Byte),
    s.moves = .linkTx :: ms → s.txData = some b →
    s.txValid = true ∧
    ∃ t, step s = .next t ∧ t.txStream = s.txStream ++ [b] ∧ t.moves = ms ∧
      t.dec = s.dec ∧ t.crc0 = s.crc0 ∧ t.rxStream = s.rxStream

/-! Selection and its reverse (R97 to R99). -/

/-- A few selections written out from the table of R98, with the byte's bits. -/
def Obligations.WrittenSelectionsDecode : Prop :=
  decode ⟨.idle, .seekStart, .rxTransfer 0b10101010#8⟩ = .op .decSeekHit ∧
  decode ⟨.idle, .readLength, .rxTransfer 0b11001000#8⟩ = .op (.decLenOk 200) ∧
  decode ⟨.idle, .readLength, .rxTransfer 0b11001001#8⟩ = .op (.decLenBad 201) ∧
  decode ⟨.idle, .readEnd, .rxTransfer 0b01010101#8⟩ = .op .decEndOk ∧
  decode ⟨.emitEnd, .idle, .txTransfer⟩ = .op .encEmitEnd ∧
  decode ⟨.idle, .readEnd, .timeoutSignal⟩ = .op .decEndTmo ∧
  decode ⟨.idle, .idle, .host (.crcByte 0b00010100#8)⟩ = .op (.crcByte 0x14#8)

/-- Every well-formed operation is what its selection decodes to, whatever the other units are doing. -/
def Obligations.SelectionOfEveryOperationDecodesToIt : Prop :=
  ∀ (i : Instr) (e : EncState) (d : DecState), i.wellFormed = true → decode (encode e d i) = .op i

/-- A selection decodes to nothing but the operation it is the selection of, and that operation is well-formed: one
meaning a selection, every operand bit kept. -/
def Obligations.DecodedSelectionIsTheOperationsOwn : Prop :=
  ∀ (w : Selection) (i : Instr), decode w = .op i → i.wellFormed = true ∧ encode w.enc w.dec i = w

/-- R97, its table being `rxRows` (with the table's `byte_ranges`): in each reading state each byte lies in exactly one row
and selects its operation, and a TimeoutSignal selects the state's `.TMO`; in `Idle` and `Done` neither selects one. -/
def Obligations.RxRowsPartitionTheBytes : Prop :=
  (∀ (d : DecState) (b : Byte),
    (d ≠ .idle → d ≠ .done →
      ∃ r, rxRows.filter (fun r => decide (r.state = d) && r.covers b) = [r] ∧ decodeRx d b = .op (r.op b)) ∧
    (d = .idle ∨ d = .done →
      rxRows.filter (fun r => decide (r.state = d) && r.covers b) = [] ∧ decodeRx d b = .reject .rxNotReady)) ∧
  decodeTimeout .seekStart = .op .decSeekTmo ∧ decodeTimeout .readLength = .op .decLenTmo ∧
  decodeTimeout .readPayload = .op .decDataTmo ∧ decodeTimeout .readChecksum = .op .decChkTmo ∧
  decodeTimeout .readEnd = .op .decEndTmo ∧
  decodeTimeout .idle = .reject .noReadInProgress ∧ decodeTimeout .done = .reject .noReadInProgress

/-! The whole machine. -/

/-- R20: registers of one unit are written only by operations of that unit and by reset; and no operation touches what the
agents outside have still to bring. -/
def Obligations.UnitsWriteOnlyTheirOwnState : Prop :=
  ∀ (i : Instr) (s t : State), exec i s = .next t →
    (unitOf i ≠ .crc0 → unitOf i ≠ .all → t.crc0 = s.crc0 ∧ t.crcSamples = s.crcSamples) ∧
    (unitOf i ≠ .enc → unitOf i ≠ .all → t.enc = s.enc) ∧
    (unitOf i ≠ .enc → t.txStream = s.txStream ∧ t.txFree = s.txFree) ∧
    (unitOf i ≠ .dec → unitOf i ≠ .all → t.dec = s.dec) ∧
    (unitOf i ≠ .dec → t.decSamples = s.decSamples ∧ t.rxFree = s.rxFree) ∧
    t.rxStream = s.rxStream ∧ t.moves = s.moves

/-- R254: "operations of different units commute". -/
def Obligations.OperationsOfDifferentUnitsCommute : Prop :=
  ∀ (i j : Instr) (s a b : State), unitOf i ≠ unitOf j → unitOf i ≠ .all → unitOf j ≠ .all →
    exec i s = .next a → exec j s = .next b →
    ∃ t, execThen i j s = .next t ∧ execThen j i s = .next t

/-- The invariant of R44 and R45 holds after reset. -/
def Obligations.ResetMeetsTheInvariant : Prop :=
  State.reset.Inv

/-- R44 and R45, with the table of R245 for `Done`: from every state that meets the invariant, whatever move comes next, a
step gives a state that meets it. -/
def Obligations.EveryStepKeepsTheInvariant : Prop :=
  ∀ s t : State, s.Inv → step s = .next t → t.Inv

/-- R240, "No operation of the core traps, aborts, halts the core", with the refusals of R262: in every state, and so under the
invariant too, every operation answers a next state but a read of a result outside its guard, and every step does but on
the host's move that makes such a read. That `Idle` may be read is U4's permission (log 9), and refusing, of the treatments
the spec allows, is log 10. -/
def Obligations.OnlyReadsOfResultsStop : Prop :=
  ∀ s : State,
    (∀ i : Instr, (∃ t, exec i s = .next t) ∨
      (i = .decResult ∧ s.dec.busy = true) ∨
      (∃ n : Byte, i = .decRdbuf n ∧ (s.dec.state ≠ .done ∨ s.dec.rxCnt.toNat ≤ n.toNat ∨ 200 ≤ n.toNat))) ∧
    ((∃ t, step s = .next t) ∨
      (s.moves.head? = some (.host .decResult) ∧ s.dec.busy = true) ∨
      (∃ n : Byte, s.moves.head? = some (.host (.decRdbuf n)) ∧
        (s.dec.state ≠ .done ∨ s.dec.rxCnt.toNat ≤ n.toNat ∨ 200 ≤ n.toNat)))

/-- R44 f and R74: while a frame is in progress the count and the buffer are frozen, until `ENC.EMIT.END` zeroes the count as it
returns to `Idle`, or a reset comes. -/
def Obligations.PayloadIsFrozenWhileEmitting : Prop :=
  ∀ s t : State, step s = .next t → s.enc.state ≠ .idle →
    (t.enc.txCnt = s.enc.txCnt ∧ t.enc.txbuf = s.enc.txbuf ∧ t.enc.state ≠ .idle) ∨
    (s.moves.head? = some .linkTx ∧ s.enc.state = .emitEnd ∧
      t.enc.state = .idle ∧ t.enc.txCnt = 0x00#8 ∧ t.enc.txbuf = s.enc.txbuf) ∨
    (s.moves.head? = some .reset ∧ t.enc = Enc.reset)

/-- R191: "No other edge exists". Either the decoder's sequencer and status stay, or the step is an edge of the table. -/
def Obligations.DecoderMovesOnlyAlongItsEdges : Prop :=
  ∀ s t : State, step s = .next t →
    (t.dec.state = s.dec.state ∧ t.dec.status = s.dec.status) ∨
    decEdge s.dec.state t.dec.state s.dec.status t.dec.status = true

/-- R244: an attempt that ends writes the status and moves to `Done`, every other register and `RXBUF` keep their values except
that a rejected length is kept in `rx_len`; the flags move as it says; no other unit notices. -/
def Obligations.TerminalEntryKeepsTheRegisters : Prop :=
  ∀ s t : State, step s = .next t → s.dec.busy = true → t.dec.state = .done →
    t.dec = { s.dec with state := .done, status := t.dec.status, rxLen := t.dec.rxLen } ∧
    (t.dec.rxLen = s.dec.rxLen ∨ (s.dec.state = .readLength ∧ t.dec.status = .desync)) ∧
    t.decBusy = false ∧ t.rxReady = false ∧ t.decDone = true ∧
    t.enc = s.enc ∧ t.crc0 = s.crc0 ∧ t.txStream = s.txStream

/-- The second half of R73: the result ports "stay unchanged from the terminating operation until the next `DEC.START`" (or a
reset); `DEC.SETTMO` writes only the configuration. -/
def Obligations.OutcomeIsStableInDone : Prop :=
  ∀ s t : State, step s = .next t → s.dec.state = .done →
    t.dec = { s.dec with tmoCfg := t.dec.tmoCfg } ∨
    (s.moves.head? = some (.host .decStart) ∧ t.dec.state = .seekStart) ∨
    (s.moves.head? = some .reset ∧ t.dec = Dec.reset)

/-- R185: `RangeError` is never produced. -/
def Obligations.RangeErrorIsNeverProduced : Prop :=
  ∀ s t : State, step s = .next t → s.dec.status ≠ .rangeError → t.dec.status ≠ .rangeError

/-! The sequencers and the functions (R151, R192). -/

/-- The commands and transfers of `ENCODE`, one after another (30_encoding.md section 6): the run completes, the TX stream
grows by exactly the frame of the clamped values, the encoder is back in `Idle` and empty, and nothing else has moved.
That the moves stand in State is the model's choice (log 1). -/
def Obligations.EncodeRunEmitsTheFrame : Prop :=
  ∀ (s : State) (vs : List PushValue) (rest : List Move),
    vs.length ≤ 255 → s.enc.state = .idle →
    s.moves = loadMoves vs ++ List.replicate (vs.length + 4) .linkTx ++ rest →
    ∃ t, run (2 * vs.length + 6) s = .next t ∧
      encodeFrame (vs.map sext) = some (t.txStream.drop s.txStream.length) ∧
      t.txStream = s.txStream ++ frame (vs.map fun v => clamp (sext v)) ∧
      t.enc.state = .idle ∧ t.enc.txCnt = 0x00#8 ∧ t.moves = rest ∧
      t.dec = s.dec ∧ t.crc0 = s.crc0 ∧ t.rxStream = s.rxStream

/-- R151, with "whatever the timing of the transfers and whatever `CRC0` and `DEC` do in between". Until `ENC.START` the
encoder's commands are `ENC.CLEAR` and a push of each value, LINK_TX moving as it likes (it meets an encoder in `Idle`);
after it LINK_TX moves `n + 4` times, the host giving the encoder what commands it likes (they meet a busy one, R152); and
after the last transfer it gives none. Any other moves but a reset stand anywhere among these. If the whole run goes through
(a read of a result may be refused), the bytes accepted are exactly the frame and the encoder is back in `Idle`. That the
moves stand in State is the model's choice (log 1). -/
def Obligations.EncoderEmitsTheFrameWhateverElseHappens : Prop :=
  ∀ (s t : State) (vs : List PushValue) (load emit post rest : List Move),
    vs.length ≤ 255 → s.enc.state = .idle →
    s.moves = load ++ .host .encStart :: (emit ++ .linkTx :: (post ++ rest)) →
    .reset ∉ load ++ emit ++ post →
    load.filter isEncCommand = .host .encClear :: vs.map (fun v => .host (.encPush v)) →
    emit.count .linkTx = vs.length + 3 →
    post.filter isEncCommand = [] →
    run (load.length + emit.length + post.length + 2) s = .next t →
    encodeFrame (vs.map sext) = some (t.txStream.drop s.txStream.length) ∧
    t.txStream = s.txStream ++ frame (vs.map fun v => clamp (sext v)) ∧
    t.enc.state = .idle ∧ t.enc.txCnt = 0x00#8 ∧ t.moves = rest

/-- R192: the operations from `DEC.START` on the same items give the same status, the same payload and the same number of
items consumed; "Not finished" is the decoder still in a reading state with every item consumed. That the items and the
moves stand in State is the model's choice (logs 1, 2). -/
def Obligations.DecoderComputesTheAttempt : Prop :=
  ∀ (s : State) (items : List LinkItem) (rest : List Move), s.dec.busy = false → s.rxStream = items →
    (∀ r : AttemptResult, attempt items = some r → s.moves = decodeMoves r.consumed ++ rest →
      ∃ t, run (r.consumed + 1) s = .next t ∧
        t.dec.state = .done ∧ t.dec.status = r.status ∧ t.dec.payload = r.payload ∧
        t.rxStream = items.drop r.consumed ∧ t.moves = rest ∧
        t.enc = s.enc ∧ t.crc0 = s.crc0 ∧ t.txStream = s.txStream) ∧
    (attempt items = none → s.moves = decodeMoves items.length ++ rest →
      ∃ t, run (items.length + 1) s = .next t ∧ t.dec.busy = true ∧ t.dec.status = .noOutcome ∧
        t.rxStream = [] ∧ t.moves = rest)

/-- `DECODE` (30_encoding.md section 6): from a decoder between attempts, `DEC.START`, moves of LINK_RX and TICKER in any order
until `dec_done`, then the read-out. The run completes; the host has read the result ports and the payload bytes in order;
and they are the outcome of `attempt` on what the reads were answered with: the items consumed, and at the end a
TimeoutSignal of the timer's where it was the timer that ended the last read. That items, moves and readings stand in State is
the model's choice (logs 1, 2, 5). -/
def Obligations.DecodeReadsTheOutcomeOfTheAttempt : Prop :=
  ∀ (s : State) (ds ms rest : List Move), s.dec.busy = false → decodeExpansion ds s = some ms → s.moves = ms ++ rest →
    ∃ (t : State) (reads : List LinkItem), run ms.length s = .next t ∧
      attempt reads = some ⟨t.dec.payload, t.dec.status, reads.length⟩ ∧
      (s.rxStream = reads ++ t.rxStream ∨
        ∃ r, reads = r ++ [.timeout] ∧ s.rxStream = r ++ t.rxStream) ∧
      t.decSamples = s.decSamples ++
        .result t.dec.status t.dec.rxCnt t.dec.rxLen t.dec.rxChk t.dec.crc ::
          t.dec.payload.mapIdx (fun i b => .cell (BitVec.ofNat 8 i) b) ∧
      t.dec.payload.length = t.dec.rxCnt.toNat ∧ t.decDone = true ∧ t.moves = rest ∧
      t.enc = s.enc ∧ t.crc0 = s.crc0 ∧ t.txStream = s.txStream

/-! The source's properties (R193) and the bounds on an attempt. -/

/-- R193 a and e over the functions: a frame of 1 to 200 bytes, with any bytes other than 0xAA in front, is recovered. -/
def Obligations.FrameIsRecovered : Prop :=
  ∀ (c noise : List Byte) (after : List LinkItem),
    1 ≤ c.length → c.length ≤ 200 → 0xAA#8 ∉ noise →
    attempt ((noise ++ frame c).map .byte ++ after) = some ⟨c, .success, noise.length + c.length + 4⟩

/-- R193 b: another checksum byte, in particular one with any single bit flipped, gives `CrcMismatch`, the payload attached. -/
def Obligations.WrongChecksumIsMismatch : Prop :=
  ∀ (c : List Byte) (n : Byte) (after : List LinkItem),
    1 ≤ c.length → c.length ≤ 200 → n.toNat = c.length →
    (∀ x : Byte, x ≠ crc8 (n :: c) →
      attempt ((0xAA#8 :: n :: c ++ [x, 0x55#8]).map .byte ++ after) =
        some ⟨c, .crcMismatch, c.length + 4⟩) ∧
    (∀ k, k < 8 →
      attempt ((0xAA#8 :: n :: c ++ [crc8 (n :: c) ^^^ (0x01#8 <<< k), 0x55#8]).map .byte ++ after) =
        some ⟨c, .crcMismatch, c.length + 4⟩)

/-- R193 c and f: a length of 0 or of 201 and above is `Desync` at once, so are the frames the encoder makes of no value and
of 201 to 255 values; a length of 1 to 200 is not. -/
def Obligations.LengthBoundaries : Prop :=
  (∀ (n : Byte) (after : List LinkItem), n.toNat = 0 ∨ 200 < n.toNat →
    attempt (.byte 0xAA#8 :: .byte n :: after) = some ⟨[], .desync, 2⟩) ∧
  (∀ (p : List Int) (bytes : List Byte) (after : List LinkItem), encodeFrame p = some bytes →
    p.length = 0 ∨ 200 < p.length → attempt (bytes.map .byte ++ after) = some ⟨[], .desync, 2⟩) ∧
  (∀ n : Byte, 1 ≤ n.toNat → n.toNat ≤ 200 → attempt [.byte 0xAA#8, .byte n] = none)

/-- The order of the tests in R256: whatever the checksum byte, a wrong end marker or none in time is `Desync`. -/
def Obligations.EndMarkerIsTestedBeforeTheChecksum : Prop :=
  ∀ (c : List Byte) (n x : Byte) (after : List LinkItem),
    1 ≤ c.length → c.length ≤ 200 → n.toNat = c.length →
    (∀ y : Byte, y ≠ 0x55#8 →
      attempt ((0xAA#8 :: n :: c ++ [x, y]).map .byte ++ after) = some ⟨c, .desync, c.length + 4⟩) ∧
    attempt ((0xAA#8 :: n :: c ++ [x]).map .byte ++ .timeout :: after) =
      some ⟨c, .desync, c.length + 4⟩

/-- R191's bound and R279: past `SeekStart` an attempt ends within 203 items, and before it noise without 0xAA never ends it. -/
def Obligations.AttemptIsBoundedPastTheStartMarker : Prop :=
  (∀ items : List LinkItem, 203 ≤ items.length → ∃ r, attemptLen items = some r ∧ r.consumed ≤ 203) ∧
  (∀ noise : List Byte, 0xAA#8 ∉ noise → attempt (noise.map .byte) = none)

/-- R193 a on the machine: encode 1 to 200 values, and let a Link that is lossless (R226) deliver the bytes taken to a decoder
between attempts. With a read for each byte the decoder's run completes and recovers the values; and whatever the timing of
reads and ticks, an attempt that has ended has recovered them. The premise "lossless" is over the whole of both runs, ticks
included (log 26). That the items and the moves stand in State is the model's choice (logs 1, 2). -/
def Obligations.RoundTripOverALosslessLink : Prop :=
  ∀ (s : State) (vs : List PushValue),
    1 ≤ vs.length → vs.length ≤ 200 → s.enc.state = .idle →
    s.moves = loadMoves vs ++ List.replicate (vs.length + 4) .linkTx →
    (∃ t, run (2 * vs.length + 6) s = .next t ∧ t.enc.state = .idle) ∧
    (∀ u : State, u.dec.busy = false → u.moves = decodeMoves (vs.length + 4) →
      lossless (linkEvents (2 * vs.length + 6) s) u.rxStream →
      ∃ w, run (vs.length + 5) u = .next w ∧ w.dec.recovers vs ∧ w.rxStream = u.rxStream.drop (vs.length + 4)) ∧
    (∀ (u w : State) (ds : List Move), u.dec.busy = false → u.moves = .host .decStart :: ds →
      (∀ m ∈ ds, isDriveMove m = true) → run (ds.length + 1) u = .next w → w.decDone = true →
      lossless (linkEvents (2 * vs.length + 6) s ++ linkEvents (ds.length + 1) u) w.rxStream →
      w.dec.recovers vs)
end

