-- ==== Sys2Proof/Laws/State.lean ====
section
/-! SUPPORT. One lemma per field per update of the state, so that no later proof unfolds a record update. -/

namespace Sys2Proof.Machine

/-! `State.withCrc0`. -/

@[simp] theorem State.withCrc0_crc0 (a : Byte) (s : State) : (s.withCrc0 a).crc0 = a := rfl
@[simp] theorem State.withCrc0_enc (a : Byte) (s : State) : (s.withCrc0 a).enc = s.enc := rfl
@[simp] theorem State.withCrc0_dec (a : Byte) (s : State) : (s.withCrc0 a).dec = s.dec := rfl
@[simp] theorem State.withCrc0_txStream (a : Byte) (s : State) : (s.withCrc0 a).txStream = s.txStream := rfl
@[simp] theorem State.withCrc0_rxStream (a : Byte) (s : State) : (s.withCrc0 a).rxStream = s.rxStream := rfl
@[simp] theorem State.withCrc0_moves (a : Byte) (s : State) : (s.withCrc0 a).moves = s.moves := rfl
@[simp] theorem State.withCrc0_crcSamples (a : Byte) (s : State) : (s.withCrc0 a).crcSamples = s.crcSamples := rfl
@[simp] theorem State.withCrc0_decSamples (a : Byte) (s : State) : (s.withCrc0 a).decSamples = s.decSamples := rfl
@[simp] theorem State.withCrc0_txFree (a : Byte) (s : State) : (s.withCrc0 a).txFree = s.txFree := rfl
@[simp] theorem State.withCrc0_rxFree (a : Byte) (s : State) : (s.withCrc0 a).rxFree = s.rxFree := rfl

/-! `State.withEnc`. -/

@[simp] theorem State.withEnc_crc0 (e : Enc) (s : State) : (s.withEnc e).crc0 = s.crc0 := rfl
@[simp] theorem State.withEnc_enc (e : Enc) (s : State) : (s.withEnc e).enc = e := rfl
@[simp] theorem State.withEnc_dec (e : Enc) (s : State) : (s.withEnc e).dec = s.dec := rfl
@[simp] theorem State.withEnc_txStream (e : Enc) (s : State) : (s.withEnc e).txStream = s.txStream := rfl
@[simp] theorem State.withEnc_rxStream (e : Enc) (s : State) : (s.withEnc e).rxStream = s.rxStream := rfl
@[simp] theorem State.withEnc_moves (e : Enc) (s : State) : (s.withEnc e).moves = s.moves := rfl
@[simp] theorem State.withEnc_crcSamples (e : Enc) (s : State) : (s.withEnc e).crcSamples = s.crcSamples := rfl
@[simp] theorem State.withEnc_decSamples (e : Enc) (s : State) : (s.withEnc e).decSamples = s.decSamples := rfl
@[simp] theorem State.withEnc_txFree (e : Enc) (s : State) : (s.withEnc e).txFree = s.txFree := rfl
@[simp] theorem State.withEnc_rxFree (e : Enc) (s : State) : (s.withEnc e).rxFree = s.rxFree := rfl

/-! `State.withDec`. -/

@[simp] theorem State.withDec_crc0 (d : Dec) (s : State) : (s.withDec d).crc0 = s.crc0 := rfl
@[simp] theorem State.withDec_enc (d : Dec) (s : State) : (s.withDec d).enc = s.enc := rfl
@[simp] theorem State.withDec_dec (d : Dec) (s : State) : (s.withDec d).dec = d := rfl
@[simp] theorem State.withDec_txStream (d : Dec) (s : State) : (s.withDec d).txStream = s.txStream := rfl
@[simp] theorem State.withDec_rxStream (d : Dec) (s : State) : (s.withDec d).rxStream = s.rxStream := rfl
@[simp] theorem State.withDec_moves (d : Dec) (s : State) : (s.withDec d).moves = s.moves := rfl
@[simp] theorem State.withDec_crcSamples (d : Dec) (s : State) : (s.withDec d).crcSamples = s.crcSamples := rfl
@[simp] theorem State.withDec_decSamples (d : Dec) (s : State) : (s.withDec d).decSamples = s.decSamples := rfl
@[simp] theorem State.withDec_txFree (d : Dec) (s : State) : (s.withDec d).txFree = s.txFree := rfl
@[simp] theorem State.withDec_rxFree (d : Dec) (s : State) : (s.withDec d).rxFree = s.rxFree := rfl

/-! `State.withMoves`. -/

@[simp] theorem State.withMoves_crc0 (ms : List Move) (s : State) : (s.withMoves ms).crc0 = s.crc0 := rfl
@[simp] theorem State.withMoves_enc (ms : List Move) (s : State) : (s.withMoves ms).enc = s.enc := rfl
@[simp] theorem State.withMoves_dec (ms : List Move) (s : State) : (s.withMoves ms).dec = s.dec := rfl
@[simp] theorem State.withMoves_txStream (ms : List Move) (s : State) : (s.withMoves ms).txStream = s.txStream := rfl
@[simp] theorem State.withMoves_rxStream (ms : List Move) (s : State) : (s.withMoves ms).rxStream = s.rxStream := rfl
@[simp] theorem State.withMoves_moves (ms : List Move) (s : State) : (s.withMoves ms).moves = ms := rfl
@[simp] theorem State.withMoves_crcSamples (ms : List Move) (s : State) : (s.withMoves ms).crcSamples = s.crcSamples := rfl
@[simp] theorem State.withMoves_decSamples (ms : List Move) (s : State) : (s.withMoves ms).decSamples = s.decSamples := rfl
@[simp] theorem State.withMoves_txFree (ms : List Move) (s : State) : (s.withMoves ms).txFree = s.txFree := rfl
@[simp] theorem State.withMoves_rxFree (ms : List Move) (s : State) : (s.withMoves ms).rxFree = s.rxFree := rfl

/-! `State.linkWrite`. -/

@[simp] theorem State.linkWrite_crc0 (b : Byte) (s : State) : (s.linkWrite b).crc0 = s.crc0 := rfl
@[simp] theorem State.linkWrite_enc (b : Byte) (s : State) : (s.linkWrite b).enc = s.enc := rfl
@[simp] theorem State.linkWrite_dec (b : Byte) (s : State) : (s.linkWrite b).dec = s.dec := rfl
@[simp] theorem State.linkWrite_txStream (b : Byte) (s : State) : (s.linkWrite b).txStream = s.txStream ++ [b] := rfl
@[simp] theorem State.linkWrite_rxStream (b : Byte) (s : State) : (s.linkWrite b).rxStream = s.rxStream := rfl
@[simp] theorem State.linkWrite_moves (b : Byte) (s : State) : (s.linkWrite b).moves = s.moves := rfl
@[simp] theorem State.linkWrite_crcSamples (b : Byte) (s : State) : (s.linkWrite b).crcSamples = s.crcSamples := rfl
@[simp] theorem State.linkWrite_decSamples (b : Byte) (s : State) : (s.linkWrite b).decSamples = s.decSamples := rfl
@[simp] theorem State.linkWrite_txFree (b : Byte) (s : State) : (s.linkWrite b).txFree = s.txFree := rfl
@[simp] theorem State.linkWrite_rxFree (b : Byte) (s : State) : (s.linkWrite b).rxFree = s.rxFree := rfl

/-! `State.sampleCrc`. -/

@[simp] theorem State.sampleCrc_crc0 (b : Byte) (s : State) : (s.sampleCrc b).crc0 = s.crc0 := rfl
@[simp] theorem State.sampleCrc_enc (b : Byte) (s : State) : (s.sampleCrc b).enc = s.enc := rfl
@[simp] theorem State.sampleCrc_dec (b : Byte) (s : State) : (s.sampleCrc b).dec = s.dec := rfl
@[simp] theorem State.sampleCrc_txStream (b : Byte) (s : State) : (s.sampleCrc b).txStream = s.txStream := rfl
@[simp] theorem State.sampleCrc_rxStream (b : Byte) (s : State) : (s.sampleCrc b).rxStream = s.rxStream := rfl
@[simp] theorem State.sampleCrc_moves (b : Byte) (s : State) : (s.sampleCrc b).moves = s.moves := rfl
@[simp] theorem State.sampleCrc_crcSamples (b : Byte) (s : State) : (s.sampleCrc b).crcSamples = s.crcSamples ++ [b] := rfl
@[simp] theorem State.sampleCrc_decSamples (b : Byte) (s : State) : (s.sampleCrc b).decSamples = s.decSamples := rfl
@[simp] theorem State.sampleCrc_txFree (b : Byte) (s : State) : (s.sampleCrc b).txFree = s.txFree := rfl
@[simp] theorem State.sampleCrc_rxFree (b : Byte) (s : State) : (s.sampleCrc b).rxFree = s.rxFree := rfl

/-! `State.sampleDec`. -/

@[simp] theorem State.sampleDec_crc0 (x : DecSample) (s : State) : (s.sampleDec x).crc0 = s.crc0 := rfl
@[simp] theorem State.sampleDec_enc (x : DecSample) (s : State) : (s.sampleDec x).enc = s.enc := rfl
@[simp] theorem State.sampleDec_dec (x : DecSample) (s : State) : (s.sampleDec x).dec = s.dec := rfl
@[simp] theorem State.sampleDec_txStream (x : DecSample) (s : State) : (s.sampleDec x).txStream = s.txStream := rfl
@[simp] theorem State.sampleDec_rxStream (x : DecSample) (s : State) : (s.sampleDec x).rxStream = s.rxStream := rfl
@[simp] theorem State.sampleDec_moves (x : DecSample) (s : State) : (s.sampleDec x).moves = s.moves := rfl
@[simp] theorem State.sampleDec_crcSamples (x : DecSample) (s : State) : (s.sampleDec x).crcSamples = s.crcSamples := rfl
@[simp] theorem State.sampleDec_decSamples (x : DecSample) (s : State) : (s.sampleDec x).decSamples = s.decSamples ++ [x] := rfl
@[simp] theorem State.sampleDec_txFree (x : DecSample) (s : State) : (s.sampleDec x).txFree = s.txFree := rfl
@[simp] theorem State.sampleDec_rxFree (x : DecSample) (s : State) : (s.sampleDec x).rxFree = s.rxFree := rfl

/-! `State.spendMove`. -/

@[simp] theorem State.spendMove_crc0 (s : State) : (s.spendMove).crc0 = s.crc0 := rfl
@[simp] theorem State.spendMove_enc (s : State) : (s.spendMove).enc = s.enc := rfl
@[simp] theorem State.spendMove_dec (s : State) : (s.spendMove).dec = s.dec := rfl
@[simp] theorem State.spendMove_txStream (s : State) : (s.spendMove).txStream = s.txStream := rfl
@[simp] theorem State.spendMove_rxStream (s : State) : (s.spendMove).rxStream = s.rxStream := rfl
@[simp] theorem State.spendMove_moves (s : State) : (s.spendMove).moves = s.moves.tail := rfl
@[simp] theorem State.spendMove_crcSamples (s : State) : (s.spendMove).crcSamples = s.crcSamples := rfl
@[simp] theorem State.spendMove_decSamples (s : State) : (s.spendMove).decSamples = s.decSamples := rfl
@[simp] theorem State.spendMove_txFree (s : State) : (s.spendMove).txFree = s.txFree := rfl
@[simp] theorem State.spendMove_rxFree (s : State) : (s.spendMove).rxFree = s.rxFree := rfl

/-! `State.drawTx` changes the one counter only. -/

@[simp] theorem State.drawTx_crc0 (i : Nat) (s : State) : (s.drawTx i).crc0 = s.crc0 := by
  unfold State.drawTx; split <;> rfl
@[simp] theorem State.drawTx_enc (i : Nat) (s : State) : (s.drawTx i).enc = s.enc := by
  unfold State.drawTx; split <;> rfl
@[simp] theorem State.drawTx_dec (i : Nat) (s : State) : (s.drawTx i).dec = s.dec := by
  unfold State.drawTx; split <;> rfl
@[simp] theorem State.drawTx_txStream (i : Nat) (s : State) : (s.drawTx i).txStream = s.txStream := by
  unfold State.drawTx; split <;> rfl
@[simp] theorem State.drawTx_rxStream (i : Nat) (s : State) : (s.drawTx i).rxStream = s.rxStream := by
  unfold State.drawTx; split <;> rfl
@[simp] theorem State.drawTx_moves (i : Nat) (s : State) : (s.drawTx i).moves = s.moves := by
  unfold State.drawTx; split <;> rfl
@[simp] theorem State.drawTx_crcSamples (i : Nat) (s : State) : (s.drawTx i).crcSamples = s.crcSamples := by
  unfold State.drawTx; split <;> rfl
@[simp] theorem State.drawTx_decSamples (i : Nat) (s : State) : (s.drawTx i).decSamples = s.decSamples := by
  unfold State.drawTx; split <;> rfl
@[simp] theorem State.drawTx_rxFree (i : Nat) (s : State) : (s.drawTx i).rxFree = s.rxFree := by
  unfold State.drawTx; split <;> rfl

/-! `State.drawRx` changes the one counter only. -/

@[simp] theorem State.drawRx_crc0 (i : Nat) (s : State) : (s.drawRx i).crc0 = s.crc0 := by
  unfold State.drawRx; split <;> rfl
@[simp] theorem State.drawRx_enc (i : Nat) (s : State) : (s.drawRx i).enc = s.enc := by
  unfold State.drawRx; split <;> rfl
@[simp] theorem State.drawRx_dec (i : Nat) (s : State) : (s.drawRx i).dec = s.dec := by
  unfold State.drawRx; split <;> rfl
@[simp] theorem State.drawRx_txStream (i : Nat) (s : State) : (s.drawRx i).txStream = s.txStream := by
  unfold State.drawRx; split <;> rfl
@[simp] theorem State.drawRx_rxStream (i : Nat) (s : State) : (s.drawRx i).rxStream = s.rxStream := by
  unfold State.drawRx; split <;> rfl
@[simp] theorem State.drawRx_moves (i : Nat) (s : State) : (s.drawRx i).moves = s.moves := by
  unfold State.drawRx; split <;> rfl
@[simp] theorem State.drawRx_crcSamples (i : Nat) (s : State) : (s.drawRx i).crcSamples = s.crcSamples := by
  unfold State.drawRx; split <;> rfl
@[simp] theorem State.drawRx_decSamples (i : Nat) (s : State) : (s.drawRx i).decSamples = s.decSamples := by
  unfold State.drawRx; split <;> rfl
@[simp] theorem State.drawRx_txFree (i : Nat) (s : State) : (s.drawRx i).txFree = s.txFree := by
  unfold State.drawRx; split <;> rfl

/-! `State.takeMove`: the move is spent, and a move of LINK_RX consumes an item. -/

@[simp] theorem State.takeMove_crc0 (m : Move) (s : State) : (s.takeMove m).crc0 = s.crc0 := by
  cases m <;> rfl
@[simp] theorem State.takeMove_enc (m : Move) (s : State) : (s.takeMove m).enc = s.enc := by
  cases m <;> rfl
@[simp] theorem State.takeMove_dec (m : Move) (s : State) : (s.takeMove m).dec = s.dec := by
  cases m <;> rfl
@[simp] theorem State.takeMove_txStream (m : Move) (s : State) : (s.takeMove m).txStream = s.txStream := by
  cases m <;> rfl
@[simp] theorem State.takeMove_crcSamples (m : Move) (s : State) : (s.takeMove m).crcSamples = s.crcSamples := by
  cases m <;> rfl
@[simp] theorem State.takeMove_decSamples (m : Move) (s : State) : (s.takeMove m).decSamples = s.decSamples := by
  cases m <;> rfl
@[simp] theorem State.takeMove_txFree (m : Move) (s : State) : (s.takeMove m).txFree = s.txFree := by
  cases m <;> rfl
@[simp] theorem State.takeMove_rxFree (m : Move) (s : State) : (s.takeMove m).rxFree = s.rxFree := by
  cases m <;> rfl
@[simp] theorem State.takeMove_moves (m : Move) (s : State) : (s.takeMove m).moves = s.moves.tail := by
  cases m <;> rfl
theorem State.takeMove_rxStream (m : Move) (s : State) :
    (s.takeMove m).rxStream = if m = .linkRx then s.rxStream.tail else s.rxStream := by
  cases m <;> rfl

/-! `Enc.clear`. -/

@[simp] theorem Enc.clear_state (e : Enc) : (e.clear).state = e.state := rfl
@[simp] theorem Enc.clear_txCnt (e : Enc) : (e.clear).txCnt = 0x00#8 := rfl
@[simp] theorem Enc.clear_txIdx (e : Enc) : (e.clear).txIdx = e.txIdx := rfl
@[simp] theorem Enc.clear_crc (e : Enc) : (e.clear).crc = e.crc := rfl
@[simp] theorem Enc.clear_txbuf (e : Enc) : (e.clear).txbuf = e.txbuf := rfl

/-! `Enc.push`. -/

@[simp] theorem Enc.push_state (b : Byte) (e : Enc) : (e.push b).state = e.state := rfl
@[simp] theorem Enc.push_txCnt (b : Byte) (e : Enc) : (e.push b).txCnt = e.txCnt + 1#8 := rfl
@[simp] theorem Enc.push_txIdx (b : Byte) (e : Enc) : (e.push b).txIdx = e.txIdx := rfl
@[simp] theorem Enc.push_crc (b : Byte) (e : Enc) : (e.push b).crc = e.crc := rfl
@[simp] theorem Enc.push_txbuf (b : Byte) (e : Enc) : (e.push b).txbuf = Memory.write e.txbuf e.txCnt.toNat b := rfl

/-! `Enc.start`. -/

@[simp] theorem Enc.start_state (e : Enc) : (e.start).state = .emitStart := rfl
@[simp] theorem Enc.start_txCnt (e : Enc) : (e.start).txCnt = e.txCnt := rfl
@[simp] theorem Enc.start_txIdx (e : Enc) : (e.start).txIdx = 0x00#8 := rfl
@[simp] theorem Enc.start_crc (e : Enc) : (e.start).crc = 0x00#8 := rfl
@[simp] theorem Enc.start_txbuf (e : Enc) : (e.start).txbuf = e.txbuf := rfl

/-! `Enc.afterStart`. -/

@[simp] theorem Enc.afterStart_state (e : Enc) : (e.afterStart).state = .emitLen := rfl
@[simp] theorem Enc.afterStart_txCnt (e : Enc) : (e.afterStart).txCnt = e.txCnt := rfl
@[simp] theorem Enc.afterStart_txIdx (e : Enc) : (e.afterStart).txIdx = e.txIdx := rfl
@[simp] theorem Enc.afterStart_crc (e : Enc) : (e.afterStart).crc = e.crc := rfl
@[simp] theorem Enc.afterStart_txbuf (e : Enc) : (e.afterStart).txbuf = e.txbuf := rfl

/-! `Enc.afterLen`. -/

@[simp] theorem Enc.afterLen_state (e : Enc) : (e.afterLen).state = if e.txCnt = 0x00#8 then .emitChecksum else .emitPayload := rfl
@[simp] theorem Enc.afterLen_txCnt (e : Enc) : (e.afterLen).txCnt = e.txCnt := rfl
@[simp] theorem Enc.afterLen_txIdx (e : Enc) : (e.afterLen).txIdx = e.txIdx := rfl
@[simp] theorem Enc.afterLen_crc (e : Enc) : (e.afterLen).crc = crcByte 0x00#8 e.txCnt := rfl
@[simp] theorem Enc.afterLen_txbuf (e : Enc) : (e.afterLen).txbuf = e.txbuf := rfl

/-! `Enc.afterData`. -/

@[simp] theorem Enc.afterData_state (b : Byte) (e : Enc) : (e.afterData b).state = if e.txIdx + 1#8 = e.txCnt then .emitChecksum else .emitPayload := rfl
@[simp] theorem Enc.afterData_txCnt (b : Byte) (e : Enc) : (e.afterData b).txCnt = e.txCnt := rfl
@[simp] theorem Enc.afterData_txIdx (b : Byte) (e : Enc) : (e.afterData b).txIdx = e.txIdx + 1#8 := rfl
@[simp] theorem Enc.afterData_crc (b : Byte) (e : Enc) : (e.afterData b).crc = crcByte e.crc b := rfl
@[simp] theorem Enc.afterData_txbuf (b : Byte) (e : Enc) : (e.afterData b).txbuf = e.txbuf := rfl

/-! `Enc.afterChk`. -/

@[simp] theorem Enc.afterChk_state (e : Enc) : (e.afterChk).state = .emitEnd := rfl
@[simp] theorem Enc.afterChk_txCnt (e : Enc) : (e.afterChk).txCnt = e.txCnt := rfl
@[simp] theorem Enc.afterChk_txIdx (e : Enc) : (e.afterChk).txIdx = e.txIdx := rfl
@[simp] theorem Enc.afterChk_crc (e : Enc) : (e.afterChk).crc = e.crc := rfl
@[simp] theorem Enc.afterChk_txbuf (e : Enc) : (e.afterChk).txbuf = e.txbuf := rfl

/-! `Enc.afterEnd`. -/

@[simp] theorem Enc.afterEnd_state (e : Enc) : (e.afterEnd).state = .idle := rfl
@[simp] theorem Enc.afterEnd_txCnt (e : Enc) : (e.afterEnd).txCnt = 0x00#8 := rfl
@[simp] theorem Enc.afterEnd_txIdx (e : Enc) : (e.afterEnd).txIdx = e.txIdx := rfl
@[simp] theorem Enc.afterEnd_crc (e : Enc) : (e.afterEnd).crc = e.crc := rfl
@[simp] theorem Enc.afterEnd_txbuf (e : Enc) : (e.afterEnd).txbuf = e.txbuf := rfl

/-! `Dec.raise`. -/

@[simp] theorem Dec.raise_state (st : DecStatus) (d : Dec) : (d.raise st).state = .done := rfl
@[simp] theorem Dec.raise_status (st : DecStatus) (d : Dec) : (d.raise st).status = st := rfl
@[simp] theorem Dec.raise_rxLen (st : DecStatus) (d : Dec) : (d.raise st).rxLen = d.rxLen := rfl
@[simp] theorem Dec.raise_rxRem (st : DecStatus) (d : Dec) : (d.raise st).rxRem = d.rxRem := rfl
@[simp] theorem Dec.raise_rxCnt (st : DecStatus) (d : Dec) : (d.raise st).rxCnt = d.rxCnt := rfl
@[simp] theorem Dec.raise_rxChk (st : DecStatus) (d : Dec) : (d.raise st).rxChk = d.rxChk := rfl
@[simp] theorem Dec.raise_crc (st : DecStatus) (d : Dec) : (d.raise st).crc = d.crc := rfl
@[simp] theorem Dec.raise_tmr (st : DecStatus) (d : Dec) : (d.raise st).tmr = d.tmr := rfl
@[simp] theorem Dec.raise_tmoCfg (st : DecStatus) (d : Dec) : (d.raise st).tmoCfg = d.tmoCfg := rfl
@[simp] theorem Dec.raise_rxbuf (st : DecStatus) (d : Dec) : (d.raise st).rxbuf = d.rxbuf := rfl

/-! `Dec.startAttempt`. -/

@[simp] theorem Dec.startAttempt_state (d : Dec) : (d.startAttempt).state = .seekStart := rfl
@[simp] theorem Dec.startAttempt_status (d : Dec) : (d.startAttempt).status = .noOutcome := rfl
@[simp] theorem Dec.startAttempt_rxLen (d : Dec) : (d.startAttempt).rxLen = 0x00#8 := rfl
@[simp] theorem Dec.startAttempt_rxRem (d : Dec) : (d.startAttempt).rxRem = 0x00#8 := rfl
@[simp] theorem Dec.startAttempt_rxCnt (d : Dec) : (d.startAttempt).rxCnt = 0x00#8 := rfl
@[simp] theorem Dec.startAttempt_rxChk (d : Dec) : (d.startAttempt).rxChk = 0x00#8 := rfl
@[simp] theorem Dec.startAttempt_crc (d : Dec) : (d.startAttempt).crc = 0x00#8 := rfl
@[simp] theorem Dec.startAttempt_tmr (d : Dec) : (d.startAttempt).tmr = d.tmoCfg := rfl
@[simp] theorem Dec.startAttempt_tmoCfg (d : Dec) : (d.startAttempt).tmoCfg = d.tmoCfg := rfl
@[simp] theorem Dec.startAttempt_rxbuf (d : Dec) : (d.startAttempt).rxbuf = d.rxbuf := rfl

/-! `Dec.reload`. -/

@[simp] theorem Dec.reload_state (d : Dec) : (d.reload).state = d.state := rfl
@[simp] theorem Dec.reload_status (d : Dec) : (d.reload).status = d.status := rfl
@[simp] theorem Dec.reload_rxLen (d : Dec) : (d.reload).rxLen = d.rxLen := rfl
@[simp] theorem Dec.reload_rxRem (d : Dec) : (d.reload).rxRem = d.rxRem := rfl
@[simp] theorem Dec.reload_rxCnt (d : Dec) : (d.reload).rxCnt = d.rxCnt := rfl
@[simp] theorem Dec.reload_rxChk (d : Dec) : (d.reload).rxChk = d.rxChk := rfl
@[simp] theorem Dec.reload_crc (d : Dec) : (d.reload).crc = d.crc := rfl
@[simp] theorem Dec.reload_tmr (d : Dec) : (d.reload).tmr = d.tmoCfg := rfl
@[simp] theorem Dec.reload_tmoCfg (d : Dec) : (d.reload).tmoCfg = d.tmoCfg := rfl
@[simp] theorem Dec.reload_rxbuf (d : Dec) : (d.reload).rxbuf = d.rxbuf := rfl

/-! `Dec.seekHit`. -/

@[simp] theorem Dec.seekHit_state (d : Dec) : (d.seekHit).state = .readLength := rfl
@[simp] theorem Dec.seekHit_status (d : Dec) : (d.seekHit).status = d.status := rfl
@[simp] theorem Dec.seekHit_rxLen (d : Dec) : (d.seekHit).rxLen = d.rxLen := rfl
@[simp] theorem Dec.seekHit_rxRem (d : Dec) : (d.seekHit).rxRem = d.rxRem := rfl
@[simp] theorem Dec.seekHit_rxCnt (d : Dec) : (d.seekHit).rxCnt = d.rxCnt := rfl
@[simp] theorem Dec.seekHit_rxChk (d : Dec) : (d.seekHit).rxChk = d.rxChk := rfl
@[simp] theorem Dec.seekHit_crc (d : Dec) : (d.seekHit).crc = d.crc := rfl
@[simp] theorem Dec.seekHit_tmr (d : Dec) : (d.seekHit).tmr = d.tmoCfg := rfl
@[simp] theorem Dec.seekHit_tmoCfg (d : Dec) : (d.seekHit).tmoCfg = d.tmoCfg := rfl
@[simp] theorem Dec.seekHit_rxbuf (d : Dec) : (d.seekHit).rxbuf = d.rxbuf := rfl

/-! `Dec.takeLength`. -/

@[simp] theorem Dec.takeLength_state (b : Byte) (d : Dec) : (d.takeLength b).state = .readPayload := rfl
@[simp] theorem Dec.takeLength_status (b : Byte) (d : Dec) : (d.takeLength b).status = d.status := rfl
@[simp] theorem Dec.takeLength_rxLen (b : Byte) (d : Dec) : (d.takeLength b).rxLen = b := rfl
@[simp] theorem Dec.takeLength_rxRem (b : Byte) (d : Dec) : (d.takeLength b).rxRem = b := rfl
@[simp] theorem Dec.takeLength_rxCnt (b : Byte) (d : Dec) : (d.takeLength b).rxCnt = 0x00#8 := rfl
@[simp] theorem Dec.takeLength_rxChk (b : Byte) (d : Dec) : (d.takeLength b).rxChk = d.rxChk := rfl
@[simp] theorem Dec.takeLength_crc (b : Byte) (d : Dec) : (d.takeLength b).crc = crcByte 0x00#8 b := rfl
@[simp] theorem Dec.takeLength_tmr (b : Byte) (d : Dec) : (d.takeLength b).tmr = d.tmoCfg := rfl
@[simp] theorem Dec.takeLength_tmoCfg (b : Byte) (d : Dec) : (d.takeLength b).tmoCfg = d.tmoCfg := rfl
@[simp] theorem Dec.takeLength_rxbuf (b : Byte) (d : Dec) : (d.takeLength b).rxbuf = d.rxbuf := rfl

/-! `Dec.rejectLength`. -/

@[simp] theorem Dec.rejectLength_state (b : Byte) (d : Dec) : (d.rejectLength b).state = .done := rfl
@[simp] theorem Dec.rejectLength_status (b : Byte) (d : Dec) : (d.rejectLength b).status = .desync := rfl
@[simp] theorem Dec.rejectLength_rxLen (b : Byte) (d : Dec) : (d.rejectLength b).rxLen = b := rfl
@[simp] theorem Dec.rejectLength_rxRem (b : Byte) (d : Dec) : (d.rejectLength b).rxRem = d.rxRem := rfl
@[simp] theorem Dec.rejectLength_rxCnt (b : Byte) (d : Dec) : (d.rejectLength b).rxCnt = d.rxCnt := rfl
@[simp] theorem Dec.rejectLength_rxChk (b : Byte) (d : Dec) : (d.rejectLength b).rxChk = d.rxChk := rfl
@[simp] theorem Dec.rejectLength_crc (b : Byte) (d : Dec) : (d.rejectLength b).crc = d.crc := rfl
@[simp] theorem Dec.rejectLength_tmr (b : Byte) (d : Dec) : (d.rejectLength b).tmr = d.tmr := rfl
@[simp] theorem Dec.rejectLength_tmoCfg (b : Byte) (d : Dec) : (d.rejectLength b).tmoCfg = d.tmoCfg := rfl
@[simp] theorem Dec.rejectLength_rxbuf (b : Byte) (d : Dec) : (d.rejectLength b).rxbuf = d.rxbuf := rfl

/-! `Dec.takeData`. -/

@[simp] theorem Dec.takeData_state (b : Byte) (d : Dec) : (d.takeData b).state = if d.rxRem - 1#8 = 0x00#8 then .readChecksum else .readPayload := rfl
@[simp] theorem Dec.takeData_status (b : Byte) (d : Dec) : (d.takeData b).status = d.status := rfl
@[simp] theorem Dec.takeData_rxLen (b : Byte) (d : Dec) : (d.takeData b).rxLen = d.rxLen := rfl
@[simp] theorem Dec.takeData_rxRem (b : Byte) (d : Dec) : (d.takeData b).rxRem = d.rxRem - 1#8 := rfl
@[simp] theorem Dec.takeData_rxCnt (b : Byte) (d : Dec) : (d.takeData b).rxCnt = d.rxCnt + 1#8 := rfl
@[simp] theorem Dec.takeData_rxChk (b : Byte) (d : Dec) : (d.takeData b).rxChk = d.rxChk := rfl
@[simp] theorem Dec.takeData_crc (b : Byte) (d : Dec) : (d.takeData b).crc = crcByte d.crc b := rfl
@[simp] theorem Dec.takeData_tmr (b : Byte) (d : Dec) : (d.takeData b).tmr = d.tmoCfg := rfl
@[simp] theorem Dec.takeData_tmoCfg (b : Byte) (d : Dec) : (d.takeData b).tmoCfg = d.tmoCfg := rfl
@[simp] theorem Dec.takeData_rxbuf (b : Byte) (d : Dec) : (d.takeData b).rxbuf = Memory.store 200 d.rxbuf d.rxCnt.toNat b := rfl

/-! `Dec.takeChecksum`. -/

@[simp] theorem Dec.takeChecksum_state (b : Byte) (d : Dec) : (d.takeChecksum b).state = .readEnd := rfl
@[simp] theorem Dec.takeChecksum_status (b : Byte) (d : Dec) : (d.takeChecksum b).status = d.status := rfl
@[simp] theorem Dec.takeChecksum_rxLen (b : Byte) (d : Dec) : (d.takeChecksum b).rxLen = d.rxLen := rfl
@[simp] theorem Dec.takeChecksum_rxRem (b : Byte) (d : Dec) : (d.takeChecksum b).rxRem = d.rxRem := rfl
@[simp] theorem Dec.takeChecksum_rxCnt (b : Byte) (d : Dec) : (d.takeChecksum b).rxCnt = d.rxCnt := rfl
@[simp] theorem Dec.takeChecksum_rxChk (b : Byte) (d : Dec) : (d.takeChecksum b).rxChk = b := rfl
@[simp] theorem Dec.takeChecksum_crc (b : Byte) (d : Dec) : (d.takeChecksum b).crc = d.crc := rfl
@[simp] theorem Dec.takeChecksum_tmr (b : Byte) (d : Dec) : (d.takeChecksum b).tmr = d.tmoCfg := rfl
@[simp] theorem Dec.takeChecksum_tmoCfg (b : Byte) (d : Dec) : (d.takeChecksum b).tmoCfg = d.tmoCfg := rfl
@[simp] theorem Dec.takeChecksum_rxbuf (b : Byte) (d : Dec) : (d.takeChecksum b).rxbuf = d.rxbuf := rfl

/-! `Dec.setTimeout`. -/

@[simp] theorem Dec.setTimeout_state (t : Ticks) (d : Dec) : (d.setTimeout t).state = d.state := rfl
@[simp] theorem Dec.setTimeout_status (t : Ticks) (d : Dec) : (d.setTimeout t).status = d.status := rfl
@[simp] theorem Dec.setTimeout_rxLen (t : Ticks) (d : Dec) : (d.setTimeout t).rxLen = d.rxLen := rfl
@[simp] theorem Dec.setTimeout_rxRem (t : Ticks) (d : Dec) : (d.setTimeout t).rxRem = d.rxRem := rfl
@[simp] theorem Dec.setTimeout_rxCnt (t : Ticks) (d : Dec) : (d.setTimeout t).rxCnt = d.rxCnt := rfl
@[simp] theorem Dec.setTimeout_rxChk (t : Ticks) (d : Dec) : (d.setTimeout t).rxChk = d.rxChk := rfl
@[simp] theorem Dec.setTimeout_crc (t : Ticks) (d : Dec) : (d.setTimeout t).crc = d.crc := rfl
@[simp] theorem Dec.setTimeout_tmr (t : Ticks) (d : Dec) : (d.setTimeout t).tmr = d.tmr := rfl
@[simp] theorem Dec.setTimeout_tmoCfg (t : Ticks) (d : Dec) : (d.setTimeout t).tmoCfg = t := rfl
@[simp] theorem Dec.setTimeout_rxbuf (t : Ticks) (d : Dec) : (d.setTimeout t).rxbuf = d.rxbuf := rfl

end Sys2Proof.Machine
end

