-- ==== Sys2Proof/Laws/Ops.lean ====
section
/-! SUPPORT. What each shared operation can do, said once: the three guarded updates, the guards' meanings, the delivery of
a TimeoutSignal, and one step. -/

namespace Sys2Proof.Machine

/-- An update of the encoder happens under its guard, and otherwise nothing does. -/
theorem onEnc_cases {c : Bool} {e : Enc} {s t : State} (h : onEnc c e s = .next t) :
    (c = true ∧ t = s.withEnc e) ∨ (c = false ∧ t = s) := by
  cases c
  · exact .inr ⟨rfl, (Host.Outcome.next.inj h).symm⟩
  · exact .inl ⟨rfl, (Host.Outcome.next.inj h).symm⟩

/-- An emission happens under its guard, and otherwise nothing does. -/
theorem emitOn_cases {c : Bool} {b : Byte} {e : Enc} {s t : State} (h : emitOn c b e s = .next t) :
    (c = true ∧ t = (s.linkWrite b).withEnc e) ∨ (c = false ∧ t = s) := by
  cases c
  · exact .inr ⟨rfl, (Host.Outcome.next.inj h).symm⟩
  · exact .inl ⟨rfl, (Host.Outcome.next.inj h).symm⟩

/-- An update of the decoder happens under its guard, and otherwise nothing does. -/
theorem onDec_cases {c : Bool} {d : Dec} {s t : State} (h : onDec c d s = .next t) :
    (c = true ∧ t = s.withDec d) ∨ (c = false ∧ t = s) := by
  cases c
  · exact .inr ⟨rfl, (Host.Outcome.next.inj h).symm⟩
  · exact .inl ⟨rfl, (Host.Outcome.next.inj h).symm⟩

@[simp] theorem onEnc_true (e : Enc) (s : State) : onEnc true e s = .next (s.withEnc e) := rfl
@[simp] theorem onEnc_false (e : Enc) (s : State) : onEnc false e s = .next s := rfl
@[simp] theorem onDec_true (d : Dec) (s : State) : onDec true d s = .next (s.withDec d) := rfl
@[simp] theorem onDec_false (d : Dec) (s : State) : onDec false d s = .next s := rfl
@[simp] theorem emitOn_true (b : Byte) (e : Enc) (s : State) :
    emitOn true b e s = .next ((s.linkWrite b).withEnc e) := rfl
@[simp] theorem emitOn_false (b : Byte) (e : Enc) (s : State) : emitOn false b e s = .next s := rfl

@[simp] theorem Enc.isIdle_iff (e : Enc) : e.isIdle = true ↔ e.state = .idle := by
  simp [Enc.isIdle]

/-- `enc_push_ready` (R27). -/
@[simp] theorem Enc.pushReady_iff (e : Enc) : e.pushReady = true ↔ e.state = .idle ∧ e.txCnt.toNat < 255 := by
  simp [Enc.pushReady]

/-- The decoder is not in a reading state exactly in `Idle` and `Done` (R28, R38). -/
theorem Dec.busy_eq_false_iff (d : Dec) : d.busy = false ↔ d.state = .idle ∨ d.state = .done := by
  unfold Dec.busy
  cases d.state <;> simp

/-- A length in `1 .. 200` (R97). -/
@[simp] theorem lengthLegal_iff (b : Byte) : lengthLegal b = true ↔ 1 ≤ b.toNat ∧ b.toNat ≤ 200 := by
  simp [lengthLegal]

/-- The range test of R182 never fails on bytes (R185). -/
@[simp] theorem Dec.rangeViolated_eq_false (d : Dec) : d.rangeViolated = false := by
  simp only [Dec.rangeViolated, List.any_eq_false, decide_eq_true_eq]
  intro b _
  have := b.isLt
  omega

/-- The verdict of R182 on bytes: the checksum test decides. -/
theorem Dec.verdict_eq (d : Dec) : d.verdict = if d.crc = d.rxChk then .success else .crcMismatch := by
  by_cases h : d.crc = d.rxChk <;> simp [Dec.verdict, h]

/-- What a TimeoutSignal does in a reading state: it ends the attempt (R174 to R184). -/
theorem Dec.timeoutSignal_of_busy {d : Dec} (h : d.busy = true) :
    d.timeoutSignal = d.raise (if d.state = .readEnd then .desync else .timeout) := by
  unfold Dec.busy at h
  unfold Dec.timeoutSignal
  split at h <;> simp_all

/-- A read of a cell that holds a byte gives that byte and draws no free value. -/
theorem State.txByte_of_cell {s : State} {i : Nat} {b : Byte} (h : s.txCell? i = some b) :
    s.txByte i = b ∧ s.drawTx i = s := by
  simp [State.txByte, State.drawTx, h]

/-- A read of a cell that holds no byte draws one free value. -/
theorem State.drawTx_of_none {s : State} {i : Nat} (h : s.txCell? i = none) :
    s.drawTx i = { s with txFree := s.txFree + 1 } := by
  simp [State.drawTx, h]

theorem State.txByte_of_held {s : State} {i : Nat} {b : Byte} (hi : i < 255)
    (h : Memory.read? s.enc.txbuf i = some b) : s.txByte i = b ∧ s.drawTx i = s :=
  State.txByte_of_cell ((if_pos hi).trans h)

theorem State.rxByte_of_cell {s : State} {i : Nat} {b : Byte} (h : s.rxCell? i = some b) :
    s.rxByte i = b ∧ s.drawRx i = s := by
  simp [State.rxByte, State.drawRx, h]

theorem State.drawRx_of_none {s : State} {i : Nat} (h : s.rxCell? i = none) :
    s.drawRx i = { s with rxFree := s.rxFree + 1 } := by
  simp [State.drawRx, h]

theorem State.rxByte_of_held {s : State} {i : Nat} {b : Byte} (hi : i < 200)
    (h : Memory.read? s.dec.rxbuf i = some b) : s.rxByte i = b ∧ s.drawRx i = s :=
  State.rxByte_of_cell ((if_pos hi).trans h)

/-- Everything one step can do: no move is left; the move brought nothing or was rejected; or the operation it selected
ran, the move and its item having been taken. -/
theorem step_cases {s t : State} (h : step s = .next t) :
    (s.moves = [] ∧ t = s) ∨
    (∃ m ms, s.moves = m :: ms ∧ t = s.spendMove) ∨
    (∃ m ms ev i, s.moves = m :: ms ∧ s.presented m = some ev ∧
      decode ⟨s.enc.state, s.dec.state, ev⟩ = .op i ∧ exec i (s.takeMove m) = .next t) := by
  unfold step at h
  split at h
  next hm => exact .inl ⟨hm, (Host.Outcome.next.inj h).symm⟩
  next m ms hm =>
    refine .inr ?_
    split at h
    next => exact .inl ⟨m, ms, hm, (Host.Outcome.next.inj h).symm⟩
    next ev hev =>
      split at h
      next i hi => exact .inr ⟨m, ms, ev, i, hm, hev, hi, h⟩
      next => exact .inl ⟨m, ms, hm, (Host.Outcome.next.inj h).symm⟩

/-- A step with a move that selects an operation. -/
theorem step_of_op {s : State} {m : Move} {ms : List Move} {ev : Event} {i : Instr} (hm : s.moves = m :: ms)
    (hev : s.presented m = some ev) (hi : decode ⟨s.enc.state, s.dec.state, ev⟩ = .op i) :
    step s = exec i (s.takeMove m) := by
  unfold step
  simp only [hm, hev, hi]

end Sys2Proof.Machine
end

