-- ==== Sys2Proof/Laws/Run.lean ====
section
/-! SUPPORT. Runs of several steps: how a run splits, and that `run` is the host's `Host.Core.run` of this machine. -/

namespace Sys2Proof.Machine

@[simp] theorem run_zero (s : State) : run 0 s = .next s := rfl

/-- A run begins with its first step. -/
theorem run_succ {k : Nat} {s t : State} (h : step s = .next t) : run (k + 1) s = run k t := by
  rw [run, h]

theorem run_fault {k : Nat} {s : State} {f : Fault} (h : step s = .fault f) : run (k + 1) s = .fault f := by
  rw [run, h]

theorem run_refused {k : Nat} {s : State} {r : Refusal} (h : step s = .refused r) : run (k + 1) s = .refused r := by
  rw [run, h]

/-- A run of `m + n` steps is one of `m`, then one of `n`. -/
theorem run_add {m n : Nat} {s t : State} (h : run m s = .next t) : run (m + n) s = run n t := by
  induction m generalizing s with
  | zero =>
    cases h
    rw [Nat.zero_add]
  | succ m ih =>
    rw [Nat.add_right_comm, run]
    rw [run] at h
    cases hs : step s with
    | next u =>
      rw [hs] at h
      exact ih h
    | fault f =>
      rw [hs] at h
      cases h
    | refused r =>
      rw [hs] at h
      cases h

/-- The first step of a run that goes through goes through. -/
theorem run_succ_inv {k : Nat} {s t : State} (h : run (k + 1) s = .next t) :
    ∃ u, step s = .next u ∧ run k u = .next t := by
  rw [run] at h
  cases hs : step s with
  | next u =>
    rw [hs] at h
    exact ⟨u, rfl, h⟩
  | fault f =>
    rw [hs] at h
    cases h
  | refused r =>
    rw [hs] at h
    cases h

/-- One step of the host's run of any machine. -/
theorem hostRun_next {M : Host.Core} {k : Nat} {s t : M.State} (h : M.step s = .next t) :
    M.run (k + 1) s = M.run k t := by
  simp only [Host.Core.run, h]

theorem hostRun_fault {M : Host.Core} {k : Nat} {s : M.State} {f : M.Fault} (h : M.step s = .fault f) :
    M.run (k + 1) s = .fault f := by
  simp only [Host.Core.run, h]

theorem hostRun_refused {M : Host.Core} {k : Nat} {s : M.State} {r : M.Refusal} (h : M.step s = .refused r) :
    M.run (k + 1) s = .refused r := by
  simp only [Host.Core.run, h]

/-- The host's run of this machine is `run`. -/
theorem core_run_eq_run (k : Nat) (s : State) : Host.Core.run Sys2Proof.core k s = run k s := by
  induction k generalizing s with
  | zero => rfl
  | succ k ih =>
    cases h : step s with
    | next t => exact (hostRun_next (M := Sys2Proof.core) h).trans ((ih t).trans (run_succ h).symm)
    | fault f => exact (hostRun_fault (M := Sys2Proof.core) h).trans (run_fault h).symm
    | refused r => exact (hostRun_refused (M := Sys2Proof.core) h).trans (run_refused h).symm

end Sys2Proof.Machine
end

