-- ==== Sys2Proof/Laws/Agents.lean ====
section
/-! SUPPORT. A step looks no further than its own move: a run of moves is made one by one (`State.makeMove`). And what a run
does at the Link, taken apart. -/

namespace Sys2Proof.Machine

theorem State.withMoves_drawTx (ms : List Move) (i : Nat) (s : State) :
    (s.withMoves ms).drawTx i = (s.drawTx i).withMoves ms := by
  show (if (s.txCell? i).isSome then _ else _) = State.withMoves ms (if (s.txCell? i).isSome then _ else _)
  split <;> rfl

theorem State.withMoves_drawRx (ms : List Move) (i : Nat) (s : State) :
    (s.withMoves ms).drawRx i = (s.drawRx i).withMoves ms := by
  show (if (s.rxCell? i).isSome then _ else _) = State.withMoves ms (if (s.rxCell? i).isSome then _ else _)
  split <;> rfl

/-- No operation looks at the moves still to come. -/
theorem exec_withMoves {i : Instr} {s t : State} (h : exec i s = .next t) (ms : List Move) :
    exec i (s.withMoves ms) = .next (t.withMoves ms) := by
  have enc : ∀ {c : Bool} {e : Enc}, onEnc c e s = .next t →
      onEnc c e (s.withMoves ms) = .next (t.withMoves ms) := fun {c _} h => by
    cases c <;> (cases h; rfl)
  have emit : ∀ {c : Bool} {b : Byte} {e : Enc}, emitOn c b e s = .next t →
      emitOn c b e (s.withMoves ms) = .next (t.withMoves ms) := fun {c _ _} h => by
    cases c <;> (cases h; rfl)
  have dec : ∀ {c : Bool} {d : Dec}, onDec c d s = .next t →
      onDec c d (s.withMoves ms) = .next (t.withMoves ms) := fun {c _} h => by
    cases c <;> (cases h; rfl)
  cases i with
  | crcClr => cases h; rfl
  | crcByte b => cases h; rfl
  | crcRead => cases h; rfl
  | encClear => exact enc h
  | encPush v => exact enc h
  | encStart => exact enc h
  | encEmitStart => exact emit h
  | encEmitLen => exact emit h
  | encEmitData =>
    simp only [exec, execEncEmitData] at h ⊢
    by_cases hs : s.enc.state = .emitPayload
    · rw [if_pos hs] at h
      rw [if_pos (show (s.withMoves ms).enc.state = .emitPayload from hs), State.withMoves_drawTx]
      cases h; rfl
    · rw [if_neg hs] at h
      rw [if_neg (show ¬ (s.withMoves ms).enc.state = .emitPayload from hs)]
      cases h; rfl
  | encEmitChk => exact emit h
  | encEmitEnd => exact emit h
  | decStart => exact dec h
  | decSeekHit => exact dec h
  | decSeekSkip b => exact dec h
  | decSeekTmo => exact dec h
  | decLenOk b => exact dec h
  | decLenBad b => exact dec h
  | decLenTmo => exact dec h
  | decDataByte b => exact dec h
  | decDataTmo => exact dec h
  | decChkByte b => exact dec h
  | decChkTmo => exact dec h
  | decEndOk => exact dec h
  | decEndBad b => exact dec h
  | decEndTmo => exact dec h
  | decTick => exact dec h
  | decSetTmo t => exact dec h
  | decResult =>
    simp only [exec, execDecResult] at h ⊢
    split at h
    next => cases h
    next hb => rw [if_neg (show ¬ (s.withMoves ms).dec.busy = true from hb)]; cases h; rfl
  | decRdbuf n =>
    simp only [exec, execDecRdbuf] at h ⊢
    split at h
    next => cases h
    next hd =>
      rw [if_neg (show ¬ (s.withMoves ms).dec.state ≠ .done from hd)]
      split at h
      next hn =>
        rw [if_pos (show n.toNat < (s.withMoves ms).dec.rxCnt.toNat ∧ n.toNat < 200 from hn), State.withMoves_drawRx]
        cases h; rfl
      next => cases h
  | sysReset => cases h; rfl

/-- An operation does not touch the moves still to come. -/
theorem exec_moves {i : Instr} {s t : State} (h : exec i s = .next t) : t.moves = s.moves := by
  have := (exec_withMoves h s.moves).symm.trans h
  injection this with this
  rw [← this]
  rfl

theorem State.takeMove_withMoves (m : Move) (ms : List Move) (s : State) :
    (s.withMoves (m :: ms)).takeMove m = ((s.withMoves [m]).takeMove m).withMoves ms := by
  cases m <;> rfl

/-- A step looks no further than its own move: it does what `makeMove` does, and spends the move. -/
theorem step_of_makeMove {s t : State} {m : Move} (h : s.makeMove m = some t) (ms : List Move) :
    step (s.withMoves (m :: ms)) = .next (t.withMoves ms) ∧ t.moves = [] := by
  unfold State.makeMove at h
  cases hs : step (s.withMoves [m]) with
  | fault f => exact nomatch f
  | refused r => rw [hs] at h; cases h
  | next u =>
    rw [hs] at h
    cases h
    unfold step at hs ⊢
    simp only [State.withMoves_moves] at hs ⊢
    change (match s.presented m with | none => _ | some ev => _) = _ at hs
    change (match s.presented m with | none => _ | some ev => _) = _ ∧ _
    cases hp : s.presented m with
    | none =>
      rw [hp] at hs
      cases hs
      exact ⟨rfl, rfl⟩
    | some ev =>
      rw [hp] at hs
      simp only [State.withMoves_enc, State.withMoves_dec] at hs ⊢
      cases hd : decode ⟨s.enc.state, s.dec.state, ev⟩ with
      | reject _ =>
        rw [hd] at hs
        cases hs
        exact ⟨rfl, rfl⟩
      | op i =>
        rw [hd] at hs
        simp only at hs ⊢
        refine ⟨?_, (exec_moves hs).trans (by cases m <;> rfl)⟩
        rw [State.takeMove_withMoves]
        exact exec_withMoves hs ms

/-- What `driveUntilDone` finds: driving moves, taken from the front of those at hand, that run to the state it gives, in which
the attempt has ended. -/
theorem driveUntilDone_spec {ds p : List Move} {s u : State} (h : driveUntilDone ds s = some (p, u)) (rest : List Move) :
    (∃ q, ds = p ++ q) ∧ (∀ m ∈ p, isDriveMove m = true) ∧ u.decDone = true ∧
    run p.length (s.withMoves (p ++ rest)) = .next (u.withMoves rest) := by
  induction ds generalizing s p with
  | nil =>
    simp only [driveUntilDone] at h
    split at h
    next hd => cases h; exact ⟨⟨[], rfl⟩, by simp, hd, rfl⟩
    next => cases h
  | cons m ds ih =>
    simp only [driveUntilDone] at h
    split at h
    next hd => cases h; exact ⟨⟨m :: ds, rfl⟩, by simp, hd, rfl⟩
    next =>
      split at h
      next hm =>
        obtain ⟨t, ht, h⟩ := Option.bind_eq_some_iff.mp h
        obtain ⟨⟨p', u'⟩, hr, h⟩ := Option.map_eq_some_iff.mp h
        cases h
        obtain ⟨⟨q, hq⟩, hp, hu, hrun⟩ := ih hr
        refine ⟨⟨q, by rw [hq]; rfl⟩, List.forall_mem_cons.mpr ⟨hm, hp⟩, hu, ?_⟩
        exact (run_succ (step_of_makeMove ht (p' ++ rest)).1).trans hrun
      next => cases h

/-! The Link. -/

@[simp] theorem linkEvents_zero (s : State) : linkEvents 0 s = [] := rfl

/-- The events of a run are those of its first step and those of the rest. -/
theorem linkEvents_succ {k : Nat} {s t : State} (h : step s = .next t) :
    linkEvents (k + 1) s = s.linkEvent.toList ++ linkEvents k t := by
  rw [linkEvents, h]

@[simp] theorem undelivered_nil (q : List Byte) : undelivered q [] = some q := by
  cases q <;> rfl

@[simp] theorem undelivered_taken (q : List Byte) (b : Byte) (es : List LinkEvent) :
    undelivered q (.taken b :: es) = undelivered (q ++ [b]) es := by
  cases q <;> rfl

/-- A read that ends in a byte, over a Link that is lossless so far, ends in the oldest undelivered one. -/
theorem undelivered_delivered {q r : List Byte} {b : Byte} {es : List LinkEvent}
    (h : undelivered q (.delivered b :: es) = some r) : ∃ q', q = b :: q' ∧ undelivered q' es = some r := by
  cases q with
  | nil => cases h
  | cons a q =>
    rw [undelivered] at h
    split at h
    next hab => exact ⟨q, by rw [hab], h⟩
    next => cases h

/-- A read that ends in a TimeoutSignal, over a Link that is lossless so far, finds every byte delivered. -/
theorem undelivered_timedOut {q r : List Byte} {es : List LinkEvent}
    (h : undelivered q (.timedOut :: es) = some r) : q = [] ∧ undelivered [] es = some r := by
  cases q with
  | nil => exact ⟨rfl, h⟩
  | cons a q => cases h

/-- What is undelivered after two stretches of events. -/
theorem undelivered_append (q : List Byte) (es fs : List LinkEvent) :
    undelivered q (es ++ fs) = (undelivered q es).bind fun r => undelivered r fs := by
  induction es generalizing q with
  | nil => cases q <;> rfl
  | cons e es ih =>
    cases e with
    | taken b => rw [List.cons_append, undelivered_taken, undelivered_taken, ih]
    | delivered b =>
      cases q with
      | nil => rfl
      | cons a q =>
        rw [List.cons_append, undelivered, undelivered]
        split
        · exact ih q
        · rfl
    | timedOut =>
      cases q with
      | nil => exact ih []
      | cons a q => rfl

end Sys2Proof.Machine
end

