-- ==== Sys2Proof/Laws/Crc.lean ====
section
/-! SUPPORT. The checksum as a fold: how it grows at the end of the sequence, which is how both sequencers compute it
(R123, R147, R148, R175, R178). -/

namespace Sys2Proof.Machine

@[simp] theorem crcFrom_nil (a : Byte) : crcFrom a [] = a := rfl

@[simp] theorem crcFrom_cons (a b : Byte) (s : List Byte) : crcFrom a (b :: s) = crcFrom (crcByte a b) s := rfl

theorem crcFrom_append (a : Byte) (s t : List Byte) : crcFrom a (s ++ t) = crcFrom (crcFrom a s) t :=
  List.foldl_append

@[simp] theorem crc8_nil : crc8 [] = 0x00#8 := rfl

/-- One more byte at the end is one more byte step (R123). -/
theorem crc8_concat (s : List Byte) (b : Byte) : crc8 (s ++ [b]) = crcByte (crc8 s) b := by
  simp [crc8, crcFrom_append]

/-- The first byte is a byte step from the initial value (R123). -/
theorem crc8_singleton (b : Byte) : crc8 [b] = crcByte 0x00#8 b := rfl

/-- The covered bytes of a frame grow at the end (R94, R123). -/
theorem crc8_cons_concat (l : Byte) (s : List Byte) (b : Byte) :
    crc8 (l :: (s ++ [b])) = crcByte (crc8 (l :: s)) b :=
  crc8_concat (l :: s) b

end Sys2Proof.Machine
end

