-- ==== Sys2Proof/Laws/Memory.lean ====
section
/-! SUPPORT. The laws of the buffers: a read after a write, the canonical form every write keeps, and the prefix
`S[0 .. n)` that the checksums and the payload are taken over. -/

namespace Sys2Proof.Machine

@[simp] theorem Memory.read?_nil (i : Nat) : Memory.read? [] i = none := rfl

/-- A read of the cell just written gives the byte written. -/
@[simp] theorem Memory.read?_write_same (m : Memory) (i : Nat) (v : Byte) :
    Memory.read? (Memory.write m i v) i = some v := by
  induction m with
  | nil => simp [Memory.write, Memory.read?]
  | cons c m ih =>
    obtain ⟨k, x⟩ := c
    by_cases h1 : i < k
    · simp [Memory.write, Memory.read?, h1]
    · by_cases h2 : i = k
      · simp [Memory.write, Memory.read?, h2]
      · have h3 : k ≠ i := fun h => h2 h.symm
        simp [Memory.write, Memory.read?, h1, h2, h3, ih]

/-- A write leaves every other cell alone. -/
theorem Memory.read?_write_other (m : Memory) {i j : Nat} (v : Byte) (h : j ≠ i) :
    Memory.read? (Memory.write m i v) j = Memory.read? m j := by
  induction m with
  | nil => simp [Memory.write, Memory.read?, Ne.symm h, Memory.unlisted]
  | cons c m ih =>
    obtain ⟨k, x⟩ := c
    by_cases h1 : i < k
    · simp [Memory.write, Memory.read?, h1, Ne.symm h]
    · by_cases h2 : i = k
      · subst h2
        simp [Memory.write, Memory.read?, Ne.symm h]
      · by_cases h3 : k = j
        · subst h3
          simp [Memory.write, Memory.read?, h1, h2]
        · simp [Memory.write, Memory.read?, h1, h2, h3, ih]

/-- The cells listed after a write: the one written and those listed before. -/
theorem Memory.mem_write {m : Memory} {i : Nat} {v : Byte} {c : Host.Cell}
    (h : c ∈ Memory.write m i v) : c = (i, v) ∨ c ∈ m := by
  induction m with
  | nil => simpa [Memory.write] using h
  | cons d m ih =>
    obtain ⟨k, x⟩ := d
    unfold Memory.write at h
    split at h
    · simpa using h
    · split at h
      · rcases List.mem_cons.mp h with h | h
        · exact .inl h
        · exact .inr (List.mem_cons_of_mem _ h)
      · rcases List.mem_cons.mp h with h | h
        · exact .inr (h ▸ List.mem_cons_self)
        · exact (ih h).imp id (List.mem_cons_of_mem _)

/-- A write keeps the canonical form. -/
theorem Memory.wf_write {m : Memory} (h : Memory.wf m) (i : Nat) (v : Byte) :
    Memory.wf (Memory.write m i v) := by
  induction m with
  | nil => simp [Memory.write, Memory.wf]
  | cons c m ih =>
    obtain ⟨k, x⟩ := c
    obtain ⟨hk, hm⟩ := List.pairwise_cons.mp h
    unfold Memory.write
    split
    next hlt =>
      refine List.pairwise_cons.mpr ⟨?_, h⟩
      intro d hd
      rcases List.mem_cons.mp hd with rfl | hd
      · exact hlt
      · exact Nat.lt_trans hlt (hk d hd)
    next hlt =>
      split
      next heq =>
        subst heq
        exact List.pairwise_cons.mpr ⟨hk, hm⟩
      next hne =>
        refine List.pairwise_cons.mpr ⟨?_, ih hm⟩
        intro d hd
        rcases Memory.mem_write hd with rfl | hd
        · show k < i
          omega
        · exact hk d hd

/-- A write below the depth keeps the buffer's invariant. -/
theorem bufferInv_write {depth : Nat} {m : Memory} (h : bufferInv depth m) {i : Nat} (hi : i < depth) (v : Byte) :
    bufferInv depth (Memory.write m i v) := by
  refine ⟨Memory.wf_write h.1 i v, fun c hc => ?_⟩
  rcases Memory.mem_write hc with rfl | hc
  · exact hi
  · exact h.2 c hc

/-! Accesses bounded by the depth (`Memory.cell?`, `Memory.store`): at a cell they are the plain read and write. -/

theorem Memory.cell?_of_lt {depth i : Nat} (m : Memory) (h : i < depth) : Memory.cell? depth m i = Memory.read? m i :=
  if_pos h

theorem Memory.cell?_of_le {depth i : Nat} (m : Memory) (h : depth ≤ i) : Memory.cell? depth m i = none :=
  if_neg (Nat.not_lt_of_le h)

theorem Memory.store_of_lt {depth i : Nat} (m : Memory) (v : Byte) (h : i < depth) :
    Memory.store depth m i v = Memory.write m i v := if_pos h

theorem Memory.store_of_le {depth i : Nat} (m : Memory) (v : Byte) (h : depth ≤ i) : Memory.store depth m i v = m :=
  if_neg (Nat.not_lt_of_le h)

/-- A bounded write keeps the buffer's invariant, whatever the index. -/
theorem bufferInv_store {depth : Nat} {m : Memory} (h : bufferInv depth m) (i : Nat) (v : Byte) :
    bufferInv depth (Memory.store depth m i v) := by
  by_cases hi : i < depth
  · rw [Memory.store_of_lt m v hi]
    exact bufferInv_write h hi v
  · rwa [Memory.store_of_le m v (Nat.le_of_not_lt hi)]

/-- An empty buffer meets the invariant. -/
theorem bufferInv_nil (depth : Nat) : bufferInv depth [] := by
  simp [bufferInv, Memory.wf]

@[simp] theorem Memory.bytes_zero (m : Memory) : Memory.bytes m 0 = [] := rfl

/-- The prefix of length `n + 1` is the prefix of length `n` and the next cell's byte. -/
theorem Memory.bytes_succ (m : Memory) (n : Nat) :
    Memory.bytes m (n + 1) = Memory.bytes m n ++ (Memory.read? m n).toList := by
  rw [Memory.bytes, Memory.bytes, List.range_succ, List.filterMap_append]
  cases h : Memory.read? m n <;> simp [h]

/-- A write at or past the end of a prefix leaves the prefix alone. -/
theorem Memory.bytes_write_past (m : Memory) {n i : Nat} (v : Byte) (h : n ≤ i) :
    Memory.bytes (Memory.write m i v) n = Memory.bytes m n := by
  induction n with
  | zero => rfl
  | succ n ih =>
    rw [Memory.bytes_succ, Memory.bytes_succ, ih (by omega), Memory.read?_write_other _ _ (by omega)]

/-- A write at the end of a prefix extends it by the byte written. -/
theorem Memory.bytes_write_end (m : Memory) (n : Nat) (v : Byte) :
    Memory.bytes (Memory.write m n v) (n + 1) = Memory.bytes m n ++ [v] := by
  rw [Memory.bytes_succ, Memory.bytes_write_past _ _ (Nat.le_refl n), Memory.read?_write_same]
  rfl

@[simp] theorem Memory.written_zero (m : Memory) : Memory.written m 0 = true := rfl

theorem Memory.written_succ (m : Memory) (n : Nat) :
    Memory.written m (n + 1) = (Memory.written m n && (Memory.read? m n).isSome) := by
  simp [Memory.written, List.range_succ]

/-- What `written` says of one cell. -/
theorem Memory.read?_of_written {m : Memory} {n i : Nat} (h : Memory.written m n = true) (hi : i < n) :
    ∃ b, Memory.read? m i = some b := by
  have := List.all_eq_true.mp h i (List.mem_range.mpr hi)
  exact Option.isSome_iff_exists.mp this

theorem Memory.written_of_le {m : Memory} {n k : Nat} (h : Memory.written m n = true) (hk : k ≤ n) :
    Memory.written m k = true :=
  List.all_eq_true.mpr fun i hi =>
    List.all_eq_true.mp h i (List.mem_range.mpr (Nat.lt_of_lt_of_le (List.mem_range.mp hi) hk))

/-- A write keeps every written cell written. -/
theorem Memory.written_write {m : Memory} {n : Nat} (h : Memory.written m n = true) (i : Nat) (v : Byte) :
    Memory.written (Memory.write m i v) n = true := by
  refine List.all_eq_true.mpr fun j hj => ?_
  by_cases hji : j = i
  · subst hji; simp
  · rw [Memory.read?_write_other _ _ hji]
    exact List.all_eq_true.mp h j hj

/-- A write at the end of a written prefix makes the next longer prefix written. -/
theorem Memory.written_write_end {m : Memory} {n : Nat} (h : Memory.written m n = true) (v : Byte) :
    Memory.written (Memory.write m n v) (n + 1) = true := by
  rw [Memory.written_succ, Memory.written_write h]
  simp

/-- The length of a written prefix. -/
theorem Memory.bytes_length {m : Memory} {n : Nat} (h : Memory.written m n = true) :
    (Memory.bytes m n).length = n := by
  induction n with
  | zero => rfl
  | succ n ih =>
    rw [Memory.written_succ, Bool.and_eq_true] at h
    obtain ⟨b, hb⟩ := Option.isSome_iff_exists.mp h.2
    rw [Memory.bytes_succ, List.length_append, ih h.1, hb]
    rfl

end Sys2Proof.Machine
end

