-- ==== Sys2Proof/Laws/PerInstr.lean ====
section
/-! SUPPORT. The round trip of the operation map, one lemma per operation: the selection of a well-formed operation decodes
to it, whatever states the units it does not name are in (R97, R98). -/

namespace Sys2Proof.Laws.RoundTrip

/-- Decoding the selection of `i` gives `i`. -/
def Statement (i : Instr) : Prop :=
  i.wellFormed = true → ∀ e d, decode (encode e d i) = .op i

theorem crcClr : Statement .crcClr := fun _ _ _ => rfl

theorem crcByte (b : Byte) : Statement (.crcByte b) := fun _ _ _ => rfl

theorem crcRead : Statement .crcRead := fun _ _ _ => rfl

theorem encClear : Statement .encClear := fun _ _ _ => rfl

theorem encPush (v : PushValue) : Statement (.encPush v) := fun _ _ _ => rfl

theorem encStart : Statement .encStart := fun _ _ _ => rfl

theorem encEmitStart : Statement .encEmitStart := fun _ _ _ => rfl

theorem encEmitLen : Statement .encEmitLen := fun _ _ _ => rfl

theorem encEmitData : Statement .encEmitData := fun _ _ _ => rfl

theorem encEmitChk : Statement .encEmitChk := fun _ _ _ => rfl

theorem encEmitEnd : Statement .encEmitEnd := fun _ _ _ => rfl

theorem decStart : Statement .decStart := fun _ _ _ => rfl

theorem decSeekHit : Statement .decSeekHit := fun _ _ _ => rfl

theorem decSeekSkip (b : Byte) : Statement (.decSeekSkip b) := by
  intro h e d
  have hb : b ≠ Config.startMarker := by simpa [Instr.wellFormed] using h
  simp only [encode, decode, decodeRx, if_neg hb]

theorem decSeekTmo : Statement .decSeekTmo := fun _ _ _ => rfl

theorem decLenOk (b : Byte) : Statement (.decLenOk b) := by
  intro h e d
  have hb : lengthLegal b = true := h
  simp only [encode, decode, decodeRx, if_pos hb]

theorem decLenBad (b : Byte) : Statement (.decLenBad b) := by
  intro h e d
  have hb : ¬ lengthLegal b = true := by
    simp only [Instr.wellFormed, lengthLegal, Bool.or_eq_true, Bool.and_eq_true, decide_eq_true_eq] at h ⊢
    omega
  simp only [encode, decode, decodeRx, if_neg hb]

theorem decLenTmo : Statement .decLenTmo := fun _ _ _ => rfl

theorem decDataByte (b : Byte) : Statement (.decDataByte b) := fun _ _ _ => rfl

theorem decDataTmo : Statement .decDataTmo := fun _ _ _ => rfl

theorem decChkByte (b : Byte) : Statement (.decChkByte b) := fun _ _ _ => rfl

theorem decChkTmo : Statement .decChkTmo := fun _ _ _ => rfl

theorem decEndOk : Statement .decEndOk := fun _ _ _ => rfl

theorem decEndBad (b : Byte) : Statement (.decEndBad b) := by
  intro h e d
  have hb : b ≠ Config.endMarker := by simpa [Instr.wellFormed] using h
  simp only [encode, decode, decodeRx, if_neg hb]

theorem decEndTmo : Statement .decEndTmo := fun _ _ _ => rfl

theorem decTick : Statement .decTick := fun _ _ _ => rfl

theorem decSetTmo (t : Ticks) : Statement (.decSetTmo t) := fun _ _ _ => rfl

theorem decResult : Statement .decResult := fun _ _ _ => rfl

theorem decRdbuf (n : Byte) : Statement (.decRdbuf n) := fun _ _ _ => rfl

theorem sysReset : Statement .sysReset := fun _ _ _ => rfl

end Sys2Proof.Laws.RoundTrip
end

