-- ==== Sys2Proof/Laws/Transitions.lean ====
section
/-! SUPPORT. Everything an operation can do to one unit, said once: a proof about every operation takes these cases and
unfolds no meaning. -/

namespace Sys2Proof.Machine

/-- The changes an operation makes to the decoder, each under the condition it happens on. -/
inductive DecChange : Instr → Dec → Dec → Prop where
  | start {d : Dec} (h : d.busy = false) : DecChange .decStart d d.startAttempt
  | seekHit {d : Dec} (h : d.state = .seekStart) : DecChange .decSeekHit d d.seekHit
  | seekSkip {d : Dec} {b : Byte} (h : d.state = .seekStart) (hb : b ≠ 0xAA#8) :
      DecChange (.decSeekSkip b) d d.reload
  | seekTmo {d : Dec} (h : d.state = .seekStart) : DecChange .decSeekTmo d (d.raise .timeout)
  | lenOk {d : Dec} {b : Byte} (h : d.state = .readLength) (hb : lengthLegal b = true) :
      DecChange (.decLenOk b) d (d.takeLength b)
  | lenBad {d : Dec} {b : Byte} (h : d.state = .readLength) (hb : lengthLegal b = false) :
      DecChange (.decLenBad b) d (d.rejectLength b)
  | lenTmo {d : Dec} (h : d.state = .readLength) : DecChange .decLenTmo d (d.raise .timeout)
  | dataByte {d : Dec} {b : Byte} (h : d.state = .readPayload) : DecChange (.decDataByte b) d (d.takeData b)
  | dataTmo {d : Dec} (h : d.state = .readPayload) : DecChange .decDataTmo d (d.raise .timeout)
  | chkByte {d : Dec} {b : Byte} (h : d.state = .readChecksum) : DecChange (.decChkByte b) d (d.takeChecksum b)
  | chkTmo {d : Dec} (h : d.state = .readChecksum) : DecChange .decChkTmo d (d.raise .timeout)
  | endOk {d : Dec} (h : d.state = .readEnd) : DecChange .decEndOk d (d.raise d.verdict)
  | endBad {d : Dec} {b : Byte} (h : d.state = .readEnd) (hb : b ≠ 0x55#8) :
      DecChange (.decEndBad b) d (d.raise .desync)
  | endTmo {d : Dec} (h : d.state = .readEnd) : DecChange .decEndTmo d (d.raise .desync)
  | tickFires {d : Dec} (h : d.busy = true) (ht : d.tmr.toNat ≤ 1) :
      DecChange .decTick d (d.raise (if d.state = .readEnd then .desync else .timeout))
  | tickCounts {d : Dec} (h : d.busy = true) (ht : 2 ≤ d.tmr.toNat) :
      DecChange .decTick d { d with tmr := d.tmr - 1#32 }
  | setTimeout {d : Dec} {t : Ticks} (h : d.busy = false) : DecChange (.decSetTmo t) d (d.setTimeout t)
  | reset {d : Dec} : DecChange .sysReset d Dec.reset

/-- The changes an operation makes to the encoder, with the bytes it hands to the Link. -/
inductive EncChange : Instr → Enc → Enc → List Byte → Prop where
  | clear {e : Enc} (h : e.state = .idle) : EncChange .encClear e e.clear []
  | push {e : Enc} {v : PushValue} (h : e.state = .idle) (hc : e.txCnt.toNat < 255) :
      EncChange (.encPush v) e (e.push (clamp (sext v))) []
  | start {e : Enc} (h : e.state = .idle) : EncChange .encStart e e.start []
  | emitStart {e : Enc} (h : e.state = .emitStart) : EncChange .encEmitStart e e.afterStart [0xAA#8]
  | emitLen {e : Enc} (h : e.state = .emitLen) : EncChange .encEmitLen e e.afterLen [e.txCnt]
  | emitData {e : Enc} {b : Byte} (h : e.state = .emitPayload)
      (hb : ∀ c, Memory.cell? 255 e.txbuf e.txIdx.toNat = some c → b = c) :
      EncChange .encEmitData e (e.afterData b) [b]
  | emitChk {e : Enc} (h : e.state = .emitChecksum) : EncChange .encEmitChk e e.afterChk [e.crc]
  | emitEnd {e : Enc} (h : e.state = .emitEnd) : EncChange .encEmitEnd e e.afterEnd [0x55#8]
  | reset {e : Enc} : EncChange .sysReset e Enc.reset []

theorem ticks_le_one_iff (x : Ticks) : x ≤ 1#32 ↔ x.toNat ≤ 1 := by
  simp [BitVec.le_def]

theorem decChange_of_onDec {i : Instr} {c : Bool} {d : Dec} {s t : State} (h : onDec c d s = .next t)
    (hc : c = true → DecChange i s.dec d) : t.dec = s.dec ∨ DecChange i s.dec t.dec := by
  rcases onDec_cases h with ⟨h1, rfl⟩ | ⟨_, rfl⟩
  · exact .inr (hc h1)
  · exact .inl rfl

theorem encChange_of_onEnc {i : Instr} {c : Bool} {e : Enc} {s t : State} (h : onEnc c e s = .next t)
    (hc : c = true → EncChange i s.enc e []) :
    (t.enc = s.enc ∧ t.txStream = s.txStream) ∨
    ∃ out, EncChange i s.enc t.enc out ∧ t.txStream = s.txStream ++ out := by
  rcases onEnc_cases h with ⟨h1, rfl⟩ | ⟨_, rfl⟩
  · exact .inr ⟨[], hc h1, (List.append_nil _).symm⟩
  · exact .inl ⟨rfl, rfl⟩

theorem encChange_of_emitOn {i : Instr} {c : Bool} {b : Byte} {e : Enc} {s t : State} (h : emitOn c b e s = .next t)
    (hc : c = true → EncChange i s.enc e [b]) :
    (t.enc = s.enc ∧ t.txStream = s.txStream) ∨
    ∃ out, EncChange i s.enc t.enc out ∧ t.txStream = s.txStream ++ out := by
  rcases emitOn_cases h with ⟨h1, rfl⟩ | ⟨_, rfl⟩
  · exact .inr ⟨[b], hc h1, rfl⟩
  · exact .inl ⟨rfl, rfl⟩

/-- Everything an operation can do to the decoder. -/
theorem exec_dec_cases {i : Instr} {s t : State} (h : exec i s = .next t) :
    t.dec = s.dec ∨ DecChange i s.dec t.dec := by
  have same : ∀ {c : Bool} {e : Enc}, onEnc c e s = .next t → t.dec = s.dec := fun h => by
    rcases onEnc_cases h with ⟨_, rfl⟩ | ⟨_, rfl⟩ <;> rfl
  have sameEmit : ∀ {c : Bool} {b : Byte} {e : Enc}, emitOn c b e s = .next t → t.dec = s.dec := fun h => by
    rcases emitOn_cases h with ⟨_, rfl⟩ | ⟨_, rfl⟩ <;> rfl
  cases i with
  | crcClr => cases h; exact .inl rfl
  | crcByte b => cases h; exact .inl rfl
  | crcRead => cases h; exact .inl rfl
  | encClear => exact .inl (same h)
  | encPush v => exact .inl (same h)
  | encStart => exact .inl (same h)
  | encEmitStart => exact .inl (sameEmit h)
  | encEmitLen => exact .inl (sameEmit h)
  | encEmitData =>
    simp only [exec, execEncEmitData] at h
    split at h <;> (cases h; simp)
  | encEmitChk => exact .inl (sameEmit h)
  | encEmitEnd => exact .inl (sameEmit h)
  | decStart => exact decChange_of_onDec h fun hc => .start (by simpa using hc)
  | decSeekHit => exact decChange_of_onDec h fun hc => .seekHit (by simpa using hc)
  | decSeekSkip b =>
    exact decChange_of_onDec h fun hc => .seekSkip (of_decide_eq_true hc).1 (of_decide_eq_true hc).2
  | decSeekTmo => exact decChange_of_onDec h fun hc => .seekTmo (by simpa using hc)
  | decLenOk b =>
    refine decChange_of_onDec h fun hc => ?_
    rw [Bool.and_eq_true, decide_eq_true_eq] at hc
    exact .lenOk hc.1 hc.2
  | decLenBad b =>
    refine decChange_of_onDec h fun hc => ?_
    rw [Bool.and_eq_true, decide_eq_true_eq, Bool.not_eq_true'] at hc
    exact .lenBad hc.1 hc.2
  | decLenTmo => exact decChange_of_onDec h fun hc => .lenTmo (by simpa using hc)
  | decDataByte b => exact decChange_of_onDec h fun hc => .dataByte (by simpa using hc)
  | decDataTmo => exact decChange_of_onDec h fun hc => .dataTmo (by simpa using hc)
  | decChkByte b => exact decChange_of_onDec h fun hc => .chkByte (by simpa using hc)
  | decChkTmo => exact decChange_of_onDec h fun hc => .chkTmo (by simpa using hc)
  | decEndOk => exact decChange_of_onDec h fun hc => .endOk (by simpa using hc)
  | decEndBad b =>
    exact decChange_of_onDec h fun hc => .endBad (of_decide_eq_true hc).1 (of_decide_eq_true hc).2
  | decEndTmo => exact decChange_of_onDec h fun hc => .endTmo (by simpa using hc)
  | decTick =>
    refine decChange_of_onDec h fun hc => ?_
    unfold Dec.tick
    split
    next ht =>
      rw [Dec.timeoutSignal_of_busy hc]
      exact .tickFires hc ((ticks_le_one_iff _).mp ht)
    next ht =>
      rw [ticks_le_one_iff] at ht
      exact .tickCounts hc (by omega)
  | decSetTmo t => exact decChange_of_onDec h fun hc => .setTimeout (by simpa using hc)
  | decResult =>
    simp only [exec, execDecResult] at h
    split at h
    · cases h
    · cases h; exact .inl rfl
  | decRdbuf n =>
    simp only [exec, execDecRdbuf] at h
    split at h
    · cases h
    · split at h
      · cases h; exact .inl (by simp)
      · cases h
  | sysReset => cases h; exact .inr .reset

/-- Everything an operation can do to the encoder and the TX stream. -/
theorem exec_enc_cases {i : Instr} {s t : State} (h : exec i s = .next t) :
    (t.enc = s.enc ∧ t.txStream = s.txStream) ∨
    ∃ out, EncChange i s.enc t.enc out ∧ t.txStream = s.txStream ++ out := by
  have same : ∀ {c : Bool} {d : Dec}, onDec c d s = .next t → t.enc = s.enc ∧ t.txStream = s.txStream := fun h => by
    rcases onDec_cases h with ⟨_, rfl⟩ | ⟨_, rfl⟩ <;> exact ⟨rfl, rfl⟩
  cases i with
  | crcClr => cases h; exact .inl ⟨rfl, rfl⟩
  | crcByte b => cases h; exact .inl ⟨rfl, rfl⟩
  | crcRead => cases h; exact .inl ⟨rfl, rfl⟩
  | encClear => exact encChange_of_onEnc h fun hc => .clear (by simpa using hc)
  | encPush v =>
    refine encChange_of_onEnc h fun hc => ?_
    rw [Enc.pushReady_iff] at hc
    exact .push hc.1 hc.2
  | encStart => exact encChange_of_onEnc h fun hc => .start (by simpa using hc)
  | encEmitStart => exact encChange_of_emitOn h fun hc => .emitStart (by simpa using hc)
  | encEmitLen => exact encChange_of_emitOn h fun hc => .emitLen (by simpa using hc)
  | encEmitData =>
    simp only [exec, execEncEmitData] at h
    split at h
    next hs =>
      cases h
      exact .inr ⟨[s.txByte s.enc.txIdx.toNat], .emitData hs fun c hc => (State.txByte_of_cell hc).1, by simp⟩
    next => cases h; exact .inl ⟨rfl, rfl⟩
  | encEmitChk => exact encChange_of_emitOn h fun hc => .emitChk (by simpa using hc)
  | encEmitEnd => exact encChange_of_emitOn h fun hc => .emitEnd (by simpa using hc)
  | decStart => exact .inl (same h)
  | decSeekHit => exact .inl (same h)
  | decSeekSkip b => exact .inl (same h)
  | decSeekTmo => exact .inl (same h)
  | decLenOk b => exact .inl (same h)
  | decLenBad b => exact .inl (same h)
  | decLenTmo => exact .inl (same h)
  | decDataByte b => exact .inl (same h)
  | decDataTmo => exact .inl (same h)
  | decChkByte b => exact .inl (same h)
  | decChkTmo => exact .inl (same h)
  | decEndOk => exact .inl (same h)
  | decEndBad b => exact .inl (same h)
  | decEndTmo => exact .inl (same h)
  | decTick => exact .inl (same h)
  | decSetTmo t => exact .inl (same h)
  | decResult =>
    simp only [exec, execDecResult] at h
    split at h
    · cases h
    · cases h; exact .inl ⟨rfl, rfl⟩
  | decRdbuf n =>
    simp only [exec, execDecRdbuf] at h
    split at h
    · cases h
    · split at h
      · cases h; exact .inl (by simp)
      · cases h
  | sysReset => cases h; exact .inr ⟨[], .reset, by simp⟩

/-- Everything one step can do to the decoder. -/
theorem step_dec_cases {s t : State} (h : step s = .next t) :
    t.dec = s.dec ∨ ∃ i, DecChange i s.dec t.dec := by
  rcases step_cases h with ⟨_, rfl⟩ | ⟨m, ms, _, rfl⟩ | ⟨m, ms, ev, i, _, _, _, hx⟩
  · exact .inl rfl
  · exact .inl rfl
  · rcases exec_dec_cases hx with hd | hd <;> rw [State.takeMove_dec] at hd
    · exact .inl hd
    · exact .inr ⟨i, hd⟩

/-- Everything one step can do to the encoder and the TX stream. -/
theorem step_enc_cases {s t : State} (h : step s = .next t) :
    (t.enc = s.enc ∧ t.txStream = s.txStream) ∨
    ∃ i out, EncChange i s.enc t.enc out ∧ t.txStream = s.txStream ++ out := by
  rcases step_cases h with ⟨_, rfl⟩ | ⟨m, ms, _, rfl⟩ | ⟨m, ms, ev, i, _, _, _, hx⟩
  · exact .inl ⟨rfl, rfl⟩
  · exact .inl ⟨rfl, rfl⟩
  · rcases exec_enc_cases hx with hd | ⟨out, hd, ho⟩
    · rw [State.takeMove_enc, State.takeMove_txStream] at hd
      exact .inl hd
    · rw [State.takeMove_enc] at hd
      rw [State.takeMove_txStream] at ho
      exact .inr ⟨i, out, hd, ho⟩

end Sys2Proof.Machine
end

