-- ==== Sys2Proof/Tests/Slice0.lean ====
section
/-! SUPPORT. Small tests. Expected results are the spec's: the table of R98 for the decoding, 95_test_vectors.md (its vectors
named at each test) for the results. Then a witness for the hypotheses of every obligation that has some. -/

namespace Sys2Proof.Tests

open Sys2Proof Sys2Proof.Machine

/-! Ill-formed terms, one or two for each check of `Instr.wellFormed`. -/

theorem test_skip_of_the_start_marker_is_ill_formed : (Instr.decSeekSkip 0xAA#8).wellFormed = false := by decide

theorem test_length_outside_the_bounds_is_ill_formed :
    (Instr.decLenOk 0#8).wellFormed = false ∧ (Instr.decLenOk 201#8).wellFormed = false := by decide

theorem test_bad_length_inside_the_bounds_is_ill_formed :
    (Instr.decLenBad 1#8).wellFormed = false ∧ (Instr.decLenBad 200#8).wellFormed = false := by decide

theorem test_bad_end_of_the_end_marker_is_ill_formed : (Instr.decEndBad 0x55#8).wellFormed = false := by decide

/-! Decoding: every operation from its selection, written out from R97 and R98 with the bits of its operand. -/

theorem test_decode_crc :
    decode ⟨.idle, .idle, .host .crcClr⟩ = .op .crcClr ∧
    decode ⟨.idle, .idle, .host (.crcByte 0b00010100#8)⟩ = .op (.crcByte 20#8) ∧
    decode ⟨.idle, .idle, .host .crcRead⟩ = .op .crcRead := by decide

theorem test_decode_enc_commands :
    decode ⟨.idle, .idle, .host .encClear⟩ = .op .encClear ∧
    decode ⟨.idle, .idle, .host (.encPush 0b1111111111111011#16)⟩ = .op (.encPush (-5)) ∧
    decode ⟨.idle, .idle, .host .encStart⟩ = .op .encStart := by decide

theorem test_decode_enc_emits :
    decode ⟨.emitStart, .idle, .txTransfer⟩ = .op .encEmitStart ∧
    decode ⟨.emitLen, .idle, .txTransfer⟩ = .op .encEmitLen ∧
    decode ⟨.emitPayload, .idle, .txTransfer⟩ = .op .encEmitData ∧
    decode ⟨.emitChecksum, .idle, .txTransfer⟩ = .op .encEmitChk ∧
    decode ⟨.emitEnd, .idle, .txTransfer⟩ = .op .encEmitEnd := by decide

theorem test_decode_dec_bytes :
    decode ⟨.idle, .seekStart, .rxTransfer 0b10101010#8⟩ = .op .decSeekHit ∧
    decode ⟨.idle, .seekStart, .rxTransfer 0b01010101#8⟩ = .op (.decSeekSkip 85#8) ∧
    decode ⟨.idle, .readLength, .rxTransfer 0b00000001#8⟩ = .op (.decLenOk 1#8) ∧
    decode ⟨.idle, .readLength, .rxTransfer 0b11001000#8⟩ = .op (.decLenOk 200#8) ∧
    decode ⟨.idle, .readLength, .rxTransfer 0b00000000#8⟩ = .op (.decLenBad 0#8) ∧
    decode ⟨.idle, .readLength, .rxTransfer 0b11001001#8⟩ = .op (.decLenBad 201#8) ∧
    decode ⟨.idle, .readPayload, .rxTransfer 0b10101010#8⟩ = .op (.decDataByte 170#8) ∧
    decode ⟨.idle, .readChecksum, .rxTransfer 0b01010101#8⟩ = .op (.decChkByte 85#8) ∧
    decode ⟨.idle, .readEnd, .rxTransfer 0b01010101#8⟩ = .op .decEndOk ∧
    decode ⟨.idle, .readEnd, .rxTransfer 0b10101010#8⟩ = .op (.decEndBad 170#8) := by decide

theorem test_decode_dec_timeouts :
    decode ⟨.idle, .seekStart, .timeoutSignal⟩ = .op .decSeekTmo ∧
    decode ⟨.idle, .readLength, .timeoutSignal⟩ = .op .decLenTmo ∧
    decode ⟨.idle, .readPayload, .timeoutSignal⟩ = .op .decDataTmo ∧
    decode ⟨.idle, .readChecksum, .timeoutSignal⟩ = .op .decChkTmo ∧
    decode ⟨.idle, .readEnd, .timeoutSignal⟩ = .op .decEndTmo := by decide

theorem test_decode_dec_commands_and_reset :
    decode ⟨.idle, .done, .host .decStart⟩ = .op .decStart ∧
    decode ⟨.idle, .seekStart, .tick⟩ = .op .decTick ∧
    decode ⟨.idle, .idle, .host (.decSetTmo 0b1111101000#32)⟩ = .op (.decSetTmo 1000#32) ∧
    decode ⟨.idle, .done, .host .decResult⟩ = .op .decResult ∧
    decode ⟨.idle, .done, .host (.decRdbuf 0b00000010#8)⟩ = .op (.decRdbuf 2#8) ∧
    decode ⟨.emitPayload, .readEnd, .rst⟩ = .op .sysReset := by decide

/-- The events no operation answers (R97's last row, R222, R223). -/
theorem test_decode_rejects :
    decode ⟨.idle, .done, .rxTransfer 0xAA#8⟩ = .reject .rxNotReady ∧
    decode ⟨.idle, .idle, .txTransfer⟩ = .reject .txNotValid ∧
    decode ⟨.idle, .idle, .timeoutSignal⟩ = .reject .noReadInProgress := by decide

/-- The words of the table with a pattern (`10101010`, `01010101`), and a word that is no byte. -/
theorem test_table_words :
    decodeTableWord 8 0b10101010 = some .decSeekHit ∧ decodeTableWord 8 0b01010101 = some .decEndOk ∧
    decodeTableWord 8 0b00000000 = some (.decDataByte 0#8) ∧ decodeTableWord 16 0xAA = none := by decide

/-! Small states and what an operation makes of them. -/

/-- The next state of an operation, where there is one. -/
def after (i : Instr) (s : State) : Option State :=
  match exec i s with
  | .next t => some t
  | .fault _ => none
  | .refused _ => none

/-- The next state of a step, where there is one. -/
def stepped (s : State) : Option State :=
  match step s with
  | .next t => some t
  | .fault _ => none
  | .refused _ => none

/-- Reset, but for the encoder. -/
def encAt (st : EncState) (cnt idx crc : Byte) (buf : Memory) : State :=
  { State.reset with enc := ⟨st, cnt, idx, crc, buf⟩ }

/-- Reset, but for the decoder: its state, status, length, rest, count, received and computed checksum, timer and
configuration, and the buffer. -/
def decAt (st : DecState) (status : DecStatus) (len rem cnt chk crc : Byte) (tmr cfg : Ticks) (buf : Memory) : State :=
  { State.reset with dec := ⟨st, status, len, rem, cnt, chk, crc, tmr, cfg, buf⟩ }

/-- The payload `0A 14 1E` of the source's example in a buffer. -/
def buf3 : Memory := [(0, 0x0A#8), (1, 0x14#8), (2, 0x1E#8)]

/-- A `step` of the state that `withFetchWord` gives runs the word's instruction. -/
theorem test_fetch_word_runs :
    stepped (State.reset.withFetchWord 8 0xAA) =
      after .decSeekHit { State.reset with dec := { Dec.reset with state := .seekStart } } ∧
    (stepped (State.reset.withFetchWord 8 0x55)).map (fun t => t.dec.status) = some .success := by
  decide +kernel

/-! CRC0 (V2, P5). -/

/-- V2, first table. -/
theorem test_crc_bit : [0x00#8, 0x01#8, 0x40#8, 0x55#8, 0x7F#8, 0x80#8, 0x81#8, 0xAA#8, 0xC0#8, 0xFF#8].map crcBit =
    [0x00#8, 0x02#8, 0x80#8, 0xAA#8, 0xFE#8, 0x07#8, 0x05#8, 0x53#8, 0x87#8, 0xF9#8] := by decide

/-- V2, K14, the nine ASCII digits. -/
theorem test_crc8_of_the_digits :
    crc8 [0x31#8, 0x32#8, 0x33#8, 0x34#8, 0x35#8, 0x36#8, 0x37#8, 0x38#8, 0x39#8] = 0xF4#8 := by decide +kernel

/-- V2: `crc0 = 5F` is cleared; `crc_byte(5F, AA) = C5`. -/
theorem test_crc_clr_and_byte :
    (after .crcClr { State.reset with crc0 := 0x5F#8 }).map (fun t => t.crc0) = some 0x00#8 ∧
    (after (.crcByte 0xAA#8) { State.reset with crc0 := 0x5F#8 }).map (fun t => t.crc0) = some 0xC5#8 := by decide

/-- P5 step 6. -/
theorem test_crc_read :
    (after .crcRead { State.reset with crc0 := 0xE4#8 }).map (fun t => (t.crc0, t.crcSamples)) =
      some (0xE4#8, [0xE4#8]) := by decide

/-! ENC (V4). -/

/-- V4, the clamp table. -/
theorem test_clamp :
    [-32768, -6, -5, -1, 0, 1, 127, 128, 254, 255, 256, 300, 32767].map clamp =
      [0#8, 0#8, 0#8, 0#8, 0#8, 1#8, 127#8, 128#8, 254#8, 255#8, 255#8, 255#8, 255#8] := by decide

/-- V4, E3. -/
theorem test_encode_clamps : encodeFrame [-5, 300] = some [0xAA#8, 0x02#8, 0x00#8, 0xFF#8, 0x25#8, 0x55#8] := by
  decide +kernel

/-- V4, X4 and, busy, X3. -/
theorem test_enc_clear :
    (after .encClear (encAt .idle 3 0 0 buf3)).map (fun t => t.enc.txCnt) = some 0#8 ∧
    after .encClear (encAt .emitPayload 3 1 0x09 buf3) = some (encAt .emitPayload 3 1 0x09 buf3) := by decide

/-- V4, X1: the last cell. -/
theorem test_enc_push_last_cell :
    (after (.encPush 9) (encAt .idle 254 0 0 [])).map (fun t => (t.enc, t.encPushReady)) =
      some (⟨.idle, 255, 0, 0, [(254, 0x09#8)]⟩, false) := by decide

/-- V4, X2, and the clamp of R143's worked example. -/
theorem test_enc_push_full_and_negative :
    after (.encPush 9) (encAt .idle 255 0 0 []) = some (encAt .idle 255 0 0 []) ∧
    (after (.encPush 0xFFFB) (encAt .idle 1 0 0 [(0, 0xFF#8)])).map (fun t => t.enc.txbuf) =
      some [(0, 0xFF#8), (1, 0x00#8)] := by decide

/-- R145's worked example, and X3. -/
theorem test_enc_start :
    (after .encStart (encAt .idle 3 9 0xE4 buf3)).map (fun t => t.enc) = some ⟨.emitStart, 3, 0, 0x00, buf3⟩ ∧
    after .encStart (encAt .emitEnd 3 3 0xE4 buf3) = some (encAt .emitEnd 3 3 0xE4 buf3) := by decide

/-- P1 step 8. -/
theorem test_enc_emit_start :
    (after .encEmitStart (encAt .emitStart 3 0 0 buf3)).map (fun t => (t.txStream, t.enc.state)) =
      some ([0xAA#8], .emitLen) := by decide

/-- P1 step 10, and X5. -/
theorem test_enc_emit_len :
    (after .encEmitLen (encAt .emitLen 3 0 0 buf3)).map (fun t => (t.txStream, t.enc.crc, t.enc.state)) =
      some ([0x03#8], 0x09#8, .emitPayload) ∧
    (after .encEmitLen (encAt .emitLen 0 0 0 [])).map (fun t => (t.txStream, t.enc.crc, t.enc.state)) =
      some ([0x00#8], 0x00#8, .emitChecksum) := by decide

/-- P1 step 14, and X6. -/
theorem test_enc_emit_data :
    (after .encEmitData (encAt .emitPayload 3 1 0x09 buf3)).map (fun t => (t.txStream, t.enc.crc, t.enc.txIdx, t.enc.state)) =
      some ([0x14#8], 0x53#8, 2#8, .emitPayload) ∧
    (after .encEmitData (encAt .emitPayload 1 0 0x07 [(0, 0x07#8)])).map
        (fun t => (t.txStream, t.enc.crc, t.enc.txIdx, t.enc.state)) =
      some ([0x07#8], 0x00#8, 1#8, .emitChecksum) := by decide

/-- P1 step 18. -/
theorem test_enc_emit_chk :
    (after .encEmitChk (encAt .emitChecksum 3 3 0xE4 buf3)).map (fun t => (t.txStream, t.enc.crc, t.enc.state)) =
      some ([0xE4#8], 0xE4#8, .emitEnd) := by decide

/-- X7. -/
theorem test_enc_emit_end :
    (after .encEmitEnd (encAt .emitEnd 3 3 0xE4 buf3)).map (fun t => (t.txStream, t.enc.state, t.enc.txCnt, t.encPushReady)) =
      some ([0x55#8], .idle, 0#8, true) := by decide

/-! DEC (V5, V6). -/

/-- R171's worked example; the buffer is kept. -/
theorem test_dec_start :
    (after .decStart (decAt .done .timeout 3 1 2 0 0x53 1 3 buf3)).map (fun t => t.dec) =
      some ⟨.seekStart, .noOutcome, 0, 0, 0, 0, 0, 3, 3, buf3⟩ := by decide

/-- R172, R173 (P3 step 2, M2). -/
theorem test_dec_seek :
    (after .decSeekHit (decAt .seekStart .noOutcome 0 0 0 0 0 1 3 [])).map (fun t => (t.dec.state, t.dec.tmr)) =
      some (.readLength, 3#32) ∧
    (after (.decSeekSkip 0x55#8) (decAt .seekStart .noOutcome 0 0 0 0 0 1 3 [])).map (fun t => (t.dec.state, t.dec.tmr)) =
      some (.seekStart, 3#32) := by decide

/-- D33, D35. -/
theorem test_dec_seek_and_len_timeouts :
    (after .decSeekTmo (decAt .seekStart .noOutcome 0 0 0 0 0 1 3 [])).map (fun t => (t.dec.state, t.dec.status)) =
      some (.done, .timeout) ∧
    (after .decLenTmo (decAt .readLength .noOutcome 0 0 0 0 0 1 3 [])).map (fun t => (t.dec.state, t.dec.status)) =
      some (.done, .timeout) := by decide

/-- P1 step 11. -/
theorem test_dec_len_ok :
    (after (.decLenOk 3#8) (decAt .readLength .noOutcome 0 0 0 0 0 1 3 [])).map (fun t => t.dec) =
      some ⟨.readPayload, .noOutcome, 3, 3, 0, 0, 0x09, 3, 3, []⟩ := by decide

/-- D21. -/
theorem test_dec_len_bad :
    (after (.decLenBad 0xC9#8) (decAt .readLength .noOutcome 0 0 0 0 0 1 3 [])).map (fun t => t.dec) =
      some ⟨.done, .desync, 0xC9, 0, 0, 0, 0, 1, 3, []⟩ := by decide

/-- P1 step 17: the last payload byte. -/
theorem test_dec_data_byte :
    (after (.decDataByte 0x1E#8) (decAt .readPayload .noOutcome 3 1 2 0 0x53 1 3 [(0, 0x0A#8), (1, 0x14#8)])).map
        (fun t => t.dec) = some ⟨.readChecksum, .noOutcome, 3, 0, 3, 0, 0xE4, 3, 3, buf3⟩ := by decide

/-- D36, D37. -/
theorem test_dec_data_and_chk_timeouts :
    (after .decDataTmo (decAt .readPayload .noOutcome 3 1 2 0 0x53 1 3 buf3)).map (fun t => t.dec) =
      some ⟨.done, .timeout, 3, 1, 2, 0, 0x53, 1, 3, buf3⟩ ∧
    (after .decChkTmo (decAt .readChecksum .noOutcome 3 0 3 0 0xE4 1 3 buf3)).map (fun t => t.dec) =
      some ⟨.done, .timeout, 3, 0, 3, 0, 0xE4, 1, 3, buf3⟩ := by decide

/-- P1 step 19. -/
theorem test_dec_chk_byte :
    (after (.decChkByte 0xE4#8) (decAt .readChecksum .noOutcome 3 0 3 0 0xE4 1 3 buf3)).map (fun t => t.dec) =
      some ⟨.readEnd, .noOutcome, 3, 0, 3, 0xE4, 0xE4, 3, 3, buf3⟩ := by decide

/-- D1, and D10 with the checksum's bit 0 flipped. -/
theorem test_dec_end_ok :
    (after .decEndOk (decAt .readEnd .noOutcome 3 0 3 0xE4 0xE4 1 3 buf3)).map (fun t => (t.dec.state, t.dec.status)) =
      some (.done, .success) ∧
    (after .decEndOk (decAt .readEnd .noOutcome 3 0 3 0xE5 0xE4 1 3 buf3)).map (fun t => (t.dec.state, t.dec.status)) =
      some (.done, .crcMismatch) := by decide +kernel

/-- D32 (both wrong), D38. -/
theorem test_dec_end_bad_and_timeout :
    (after (.decEndBad 0x54#8) (decAt .readEnd .noOutcome 3 0 3 0xE5 0xE4 1 3 buf3)).map (fun t => t.dec.status) =
      some .desync ∧
    (after .decEndTmo (decAt .readEnd .noOutcome 3 0 3 0xE4 0xE4 1 3 buf3)).map (fun t => t.dec.status) =
      some .desync := by decide

/-- M1 (the second tick), M3 and M4. -/
theorem test_dec_tick :
    (after .decTick (decAt .seekStart .noOutcome 0 0 0 0 0 2 3 [])).map (fun t => (t.dec.state, t.dec.tmr)) =
      some (.seekStart, 1#32) ∧
    (after .decTick (decAt .seekStart .noOutcome 0 0 0 0 0 1 1 [])).map (fun t => t.dec.status) = some .timeout ∧
    (after .decTick (decAt .seekStart .noOutcome 0 0 0 0 0 0 0 [])).map (fun t => t.dec.status) = some .timeout := by
  decide

/-- M8 and M7. -/
theorem test_dec_tick_at_the_end_marker_and_in_done :
    (after .decTick (decAt .readEnd .noOutcome 3 0 3 0xE4 0xE4 1 2 buf3)).map (fun t => t.dec.status) = some .desync ∧
    after .decTick (decAt .done .success 3 0 3 0xE4 0xE4 1 2 buf3) =
      some (decAt .done .success 3 0 3 0xE4 0xE4 1 2 buf3) := by decide

/-- M6 and M5. -/
theorem test_dec_settmo :
    after (.decSetTmo 9) (decAt .done .success 3 0 3 0xE4 0xE4 1 2 buf3) =
      some (decAt .done .success 3 0 3 0xE4 0xE4 1 9 buf3) ∧
    after (.decSetTmo 9) (decAt .readPayload .noOutcome 3 1 2 0 0x53 1 3 buf3) =
      some (decAt .readPayload .noOutcome 3 1 2 0 0x53 1 3 buf3) := by decide

/-- R189's and R190's worked examples (P1 steps 22 and 23). -/
theorem test_dec_result_and_rdbuf :
    (after .decResult (decAt .done .success 3 0 3 0xE4 0xE4 1 3 buf3)).map (fun t => t.decSamples) =
      some [.result .success 3 3 0xE4 0xE4] ∧
    (after (.decRdbuf 2) (decAt .done .success 3 0 3 0xE4 0xE4 1 3 buf3)).map (fun t => t.decSamples) =
      some [.cell 2 0x1E#8] := by decide

/-- R190: past the payload and outside `Done`; R189: while reading. -/
theorem test_dec_reads_refused :
    exec (.decRdbuf 3) (decAt .done .success 3 0 3 0xE4 0xE4 1 3 buf3) = .refused .noPayloadByte ∧
    exec (.decRdbuf 0) (decAt .readEnd .noOutcome 3 0 3 0xE4 0xE4 1 3 buf3) = .refused .bufferInMotion ∧
    exec .decResult (decAt .readEnd .noOutcome 3 0 3 0xE4 0xE4 1 3 buf3) = .refused .resultsInMotion :=
  ⟨rfl, rfl, rfl⟩

/-- Z1: the bytes already taken stay taken. -/
theorem test_reset_keeps_the_link :
    after .sysReset { encAt .emitPayload 3 2 0x53 buf3 with txStream := [0xAA#8, 0x03#8, 0x0A#8, 0x14#8] } =
      some { State.reset with txStream := [0xAA#8, 0x03#8, 0x0A#8, 0x14#8] } := by decide

/-- D1 and D31 over `attempt`. -/
theorem test_attempt :
    attempt ([0xAA#8, 0x03#8, 0x0A#8, 0x14#8, 0x1E#8, 0xE4#8, 0x55#8].map .byte) =
      some ⟨[0x0A#8, 0x14#8, 0x1E#8], .success, 7⟩ ∧
    attempt ([0xAA#8, 0x01#8, 0x07#8, 0x00#8, 0xAA#8, 0x03#8].map .byte) = some ⟨[0x07#8], .desync, 5⟩ := by
  decide +kernel

/-! Witnesses: for each obligation with hypotheses, concrete states and operands that meet them, at the edges of their ranges
and, where it has clauses with premises of their own, for each of those. -/

/-- The same state with moves to come. -/
def withMoves (ms : List Move) (s : State) : State := { s with moves := ms }

/-- The same state with items on the RX stream and moves to come. -/
def withItems (items : List LinkItem) (ms : List Move) (s : State) : State := { s with rxStream := items, moves := ms }

/-- In the middle of the source's example: the encoder has sent `AA 03 0A`, the decoder has taken `AA 03 0A 14` of another
such frame and its next item is the last payload byte. -/
def midFrame : State :=
  { State.reset with
    enc := ⟨.emitPayload, 3, 1, 0x09, buf3⟩
    dec := ⟨.readPayload, .noOutcome, 3, 1, 2, 0, 0x53, 5, 5, [(0, 0x0A#8), (1, 0x14#8)]⟩
    rxStream := [.byte 0x1E#8, .byte 0xE4#8] }

/-- The decoder in `Done` after D1. -/
def doneD1 : State := decAt .done .success 3 0 3 0xE4 0xE4 5 5 buf3

theorem midFrame_inv : midFrame.Inv :=
  ⟨⟨⟨by decide, by decide⟩, by decide, ⟨by decide, by decide +kernel⟩⟩,
   ⟨by decide, by decide⟩, by decide, by decide,
   ⟨by decide, by decide, by decide, by decide +kernel⟩, by decide, rfl, rfl⟩

theorem doneD1_inv : doneD1.Inv :=
  ⟨⟨⟨by decide, by decide⟩, by decide, trivial⟩,
   ⟨by decide, by decide⟩, by decide, by decide,
   ⟨⟨by decide, by decide, by decide, by decide +kernel⟩, rfl⟩, rfl⟩

theorem witness_ChecksumProperties : 0 < 8 ∧ 7 < 8 ∧ [0x01#8, 0x02#8].length = [0xFF#8, 0x00#8].length := by decide

theorem witness_ChecksumCommandsReadCrc8 :
    (withMoves [.host .crcClr, .host (.crcByte 0x03#8), .host .crcRead, .ticker] midFrame).moves =
      checksumMoves [0x03#8] ++ [.ticker] := rfl

theorem witness_ClampSaturates : ((-1 : Int) < 0) ∧ (255 < (256 : Int)) ∧ (0 ≤ (0 : Int) ∧ (0 : Int) ≤ 255) ∧
    (0 ≤ (255 : Int) ∧ (255 : Int) ≤ 255) := by decide

theorem witness_EncoderClearEmptiesInIdle :
    (encAt .idle 3 0 0 buf3).enc.state = .idle ∧ midFrame.enc.state ≠ .idle := by decide

theorem witness_EncoderPushStoresTheClampedValue :
    ((encAt .idle 0 0 0 []).enc.state = .idle ∧ (encAt .idle 0 0 0 []).enc.txCnt.toNat < 255) ∧
    ((encAt .idle 254 0 0 []).enc.state = .idle ∧ (encAt .idle 254 0 0 []).enc.txCnt.toNat < 255) ∧
    midFrame.enc.state ≠ .idle ∧ (encAt .idle 255 0 0 []).enc.txCnt.toNat = 255 := by decide

theorem witness_EncoderStartBeginsAFrame :
    (encAt .idle 3 0 0 buf3).enc.state = .idle ∧
    (∃ t, (encAt .idle 3 0 0 buf3).enc.state = .idle ∧ exec .encStart (encAt .idle 3 0 0 buf3) = .next t) ∧
    midFrame.enc.state ≠ .idle := ⟨rfl, ⟨_, rfl, rfl⟩, by decide⟩

theorem witness_EncoderEmitsMarkersAndChecksum :
    (encAt .emitStart 3 0 0 buf3).enc.state = .emitStart ∧
    (encAt .emitChecksum 3 3 0xE4 buf3).enc.state = .emitChecksum ∧
    (encAt .emitEnd 3 3 0xE4 buf3).enc.state = .emitEnd ∧
    (∃ t, exec .encEmitEnd (encAt .emitEnd 3 3 0xE4 buf3) = .next t) := ⟨rfl, rfl, rfl, _, rfl⟩

theorem witness_EncoderEmitsTheLength :
    (encAt .emitLen 0 0 0 []).enc.state = .emitLen ∧ (encAt .emitLen 255 0 0 []).enc.state = .emitLen := by decide

/-- At the first index and at the last one, 254, which is the last byte of its frame. -/
theorem witness_EncoderEmitsThePayloadByte :
    ((encAt .emitPayload 3 0 0x09 buf3).enc.state = .emitPayload ∧ (encAt .emitPayload 3 0 0x09 buf3).enc.txIdx.toNat < 255 ∧
      Memory.read? (encAt .emitPayload 3 0 0x09 buf3).enc.txbuf 0 = some 0x0A#8) ∧
    ((encAt .emitPayload 255 254 0 [(254, 0x09#8)]).enc.state = .emitPayload ∧
      (encAt .emitPayload 255 254 0 [(254, 0x09#8)]).enc.txIdx.toNat < 255 ∧
      Memory.read? (encAt .emitPayload 255 254 0 [(254, 0x09#8)]).enc.txbuf 254 = some 0x09#8) := by decide

theorem witness_DecoderStartBeginsAnAttempt :
    State.reset.dec.state = .idle ∧ doneD1.dec.state = .done ∧ (∃ t, exec .decStart doneD1 = .next t) ∧
    (midFrame.dec.state ≠ .idle ∧ midFrame.dec.state ≠ .done) := ⟨rfl, rfl, ⟨_, rfl⟩, by decide⟩

theorem witness_DecoderSeeksTheStartMarker :
    (decAt .seekStart .noOutcome 0 0 0 0 0 1 3 []).dec.state = .seekStart ∧ 0xA9#8 ≠ 0xAA#8 ∧ 0xAB#8 ≠ 0xAA#8 := by decide

theorem witness_DecoderAcceptsOrRejectsTheLength :
    (decAt .readLength .noOutcome 0 0 0 0 0 1 3 []).dec.state = .readLength ∧
    (1 ≤ (1#8).toNat ∧ (1#8).toNat ≤ 200) ∧ (1 ≤ (200#8).toNat ∧ (200#8).toNat ≤ 200) ∧
    (0#8).toNat = 0 ∧ 201 ≤ (201#8).toNat ∧ 201 ≤ (255#8).toNat ∧
    (∃ t, exec (.decLenBad 201#8) (decAt .readLength .noOutcome 0 0 0 0 0 1 3 []) = .next t) :=
  ⟨rfl, by decide, by decide, rfl, by decide, by decide, _, rfl⟩

/-- With two bytes still to come, and at the last cell with one. -/
theorem witness_DecoderStoresThePayloadByte :
    ((decAt .readPayload .noOutcome 2 2 0 0 0x0E 1 3 []).dec.state = .readPayload ∧
      (decAt .readPayload .noOutcome 2 2 0 0 0x0E 1 3 []).dec.rxCnt.toNat < 200) ∧
    ((decAt .readPayload .noOutcome 200 1 199 0 0 1 3 []).dec.state = .readPayload ∧
      (decAt .readPayload .noOutcome 200 1 199 0 0 1 3 []).dec.rxCnt.toNat < 200) := by decide

theorem witness_DecoderRetainsTheChecksum :
    (decAt .readChecksum .noOutcome 3 0 3 0 0xE4 1 3 buf3).dec.state = .readChecksum := rfl

/-- With a wrong and with a right checksum. -/
theorem witness_DecoderJudgesAtTheEndMarker :
    ((decAt .readEnd .noOutcome 3 0 3 0xE5 0xE4 1 3 buf3).dec.state = .readEnd ∧
      (decAt .readEnd .noOutcome 3 0 3 0xE5 0xE4 1 3 buf3).dec.crc ≠ 0xE5#8) ∧
    ((decAt .readEnd .noOutcome 3 0 3 0xE4 0xE4 1 3 buf3).dec.state = .readEnd ∧
      (decAt .readEnd .noOutcome 3 0 3 0xE4 0xE4 1 3 buf3).dec.crc =
        (decAt .readEnd .noOutcome 3 0 3 0xE4 0xE4 1 3 buf3).dec.rxChk) ∧
    0x54#8 ≠ 0x55#8 ∧
    (∃ t, exec .decEndOk (decAt .readEnd .noOutcome 3 0 3 0xE4 0xE4 1 3 buf3) = .next t) ∧
    (∃ t, exec (.decEndBad 0x54#8) (decAt .readEnd .noOutcome 3 0 3 0xE4 0xE4 1 3 buf3) = .next t) :=
  ⟨by decide, by decide, by decide, ⟨_, rfl⟩, _, rfl⟩

theorem witness_TimeoutSignalsEndTheAttempt :
    (decAt .seekStart .noOutcome 0 0 0 0 0 1 3 []).dec.state = .seekStart ∧
    (decAt .readLength .noOutcome 0 0 0 0 0 1 3 []).dec.state = .readLength ∧
    midFrame.dec.state = .readPayload ∧
    (decAt .readChecksum .noOutcome 3 0 3 0 0xE4 1 3 buf3).dec.state = .readChecksum ∧
    (decAt .readEnd .noOutcome 3 0 3 0xE4 0xE4 1 3 buf3).dec.state = .readEnd := by decide

/-- The timer at 0, 1 and 2, in each state, and a run of ticks. -/
theorem witness_TickCountsDownOrTimesOut :
    State.reset.dec.state = .idle ∧ doneD1.dec.state = .done ∧
    ((decAt .readEnd .noOutcome 3 0 3 0xE4 0xE4 2 3 buf3).dec.busy = true ∧ 2 ≤ (2#32).toNat) ∧
    ((decAt .readEnd .noOutcome 3 0 3 0xE4 0xE4 1 3 buf3).dec.busy = true ∧ (1#32).toNat ≤ 1) ∧
    ((decAt .seekStart .noOutcome 0 0 0 0 0 0 0 []).dec.state = .seekStart ∧
      (decAt .seekStart .noOutcome 0 0 0 0 0 0 0 []).dec.tmr.toNat ≤ 1) ∧
    ((decAt .readLength .noOutcome 0 0 0 0 0 1 1 []).dec.state = .readLength ∧
      (decAt .readLength .noOutcome 0 0 0 0 0 1 1 []).dec.tmr.toNat ≤ 1) ∧
    ((decAt .readPayload .noOutcome 3 1 2 0 0x53 1 1 buf3).dec.state = .readPayload ∧
      (decAt .readPayload .noOutcome 3 1 2 0 0x53 1 1 buf3).dec.tmr.toNat ≤ 1) ∧
    ((decAt .readChecksum .noOutcome 3 0 3 0 0xE4 1 1 buf3).dec.state = .readChecksum ∧
      (decAt .readChecksum .noOutcome 3 0 3 0 0xE4 1 1 buf3).dec.tmr.toNat ≤ 1) ∧
    ((decAt .readEnd .noOutcome 3 0 3 0xE4 0xE4 1 1 buf3).dec.state = .readEnd ∧
      (decAt .readEnd .noOutcome 3 0 3 0xE4 0xE4 1 1 buf3).dec.tmr.toNat ≤ 1) ∧
    (let s := withMoves [.ticker, .ticker, .linkRx] (decAt .readEnd .noOutcome 3 0 3 0xE4 0xE4 2 3 buf3)
     s.dec.busy = true ∧ s.moves = List.replicate (max 1 s.dec.tmr.toNat) .ticker ++ [.linkRx] ∧
     1 < max 1 s.dec.tmr.toNat) ∧
    (let s := withMoves [.ticker] (decAt .seekStart .noOutcome 0 0 0 0 0 0 0 [])
     s.dec.busy = true ∧ s.moves = List.replicate (max 1 s.dec.tmr.toNat) .ticker ++ [] ∧
     0 < max 1 s.dec.tmr.toNat) := by decide

theorem witness_SetTimeoutOnlyBetweenAttempts :
    State.reset.dec.state = .idle ∧ doneD1.dec.state = .done ∧
    (midFrame.dec.state ≠ .idle ∧ midFrame.dec.state ≠ .done) := by decide

theorem witness_ResultIsReadBetweenAttempts :
    State.reset.dec.state = .idle ∧ doneD1.dec.state = .done ∧ midFrame.dec.busy = true := by decide

/-- The last payload byte and the index after it; the last cell of the buffer and the index after it. -/
theorem witness_PayloadIsReadInDone :
    (doneD1.dec.state = .done ∧ (2#8).toNat < doneD1.dec.rxCnt.toNat ∧ (2#8).toNat < 200 ∧
      Memory.read? doneD1.dec.rxbuf (2#8).toNat = some 0x1E#8) ∧
    doneD1.dec.rxCnt.toNat ≤ (3#8).toNat ∧
    (let s := decAt .done .success 200 0 200 0 0 1 3 [(199, 0x07#8)]
     s.dec.state = .done ∧ (199#8).toNat < s.dec.rxCnt.toNat ∧ (199#8).toNat < 200 ∧
     Memory.read? s.dec.rxbuf (199#8).toNat = some 0x07#8) ∧
    200 ≤ (200#8).toNat ∧ midFrame.dec.state ≠ .done := by decide

theorem witness_UnwrittenCellsGiveFreeBytes :
    (let s := encAt .emitPayload 255 254 0 []
     s.enc.state = .emitPayload ∧ s.enc.txIdx.toNat < 255 ∧ Memory.read? s.enc.txbuf s.enc.txIdx.toNat = none) ∧
    (let s := decAt .done .success 200 0 200 0 0 1 3 []
     s.dec.state = .done ∧ (199#8).toNat < s.dec.rxCnt.toNat ∧ (199#8).toNat < 200 ∧
     Memory.read? s.dec.rxbuf (199#8).toNat = none) := by decide

theorem witness_ResetSetsEveryRegister : ∃ t, exec .sysReset midFrame = .next t := ⟨_, rfl⟩

theorem witness_AccessOutsideABufferReachesNoCell :
    ((encAt .emitPayload 0 255 0 []).enc.state = .emitPayload ∧ 255 ≤ (encAt .emitPayload 0 255 0 []).enc.txIdx.toNat) ∧
    ((decAt .readPayload .noOutcome 3 1 200 0 0 1 3 []).dec.state = .readPayload ∧
      200 ≤ (decAt .readPayload .noOutcome 3 1 200 0 0 1 3 []).dec.rxCnt.toNat) ∧
    ((decAt .readPayload .noOutcome 3 1 255 0 0 1 3 []).dec.state = .readPayload ∧
      200 ≤ (decAt .readPayload .noOutcome 3 1 255 0 0 1 3 []).dec.rxCnt.toNat) := by decide

/-- One state meets every "not in this state" premise; the byte premises at the edges, in the selecting state. -/
theorem witness_UnselectedOperationsDoNothing :
    (State.reset.enc.state ≠ .emitStart ∧ State.reset.enc.state ≠ .emitLen ∧ State.reset.enc.state ≠ .emitPayload ∧
      State.reset.enc.state ≠ .emitChecksum ∧ State.reset.enc.state ≠ .emitEnd) ∧
    (State.reset.dec.state ≠ .seekStart ∧ State.reset.dec.state ≠ .readLength ∧ State.reset.dec.state ≠ .readPayload ∧
      State.reset.dec.state ≠ .readChecksum ∧ State.reset.dec.state ≠ .readEnd) ∧
    (0#8).toNat = 0 ∧ 200 < (201#8).toNat ∧ (1 ≤ (1#8).toNat ∧ (1#8).toNat ≤ 200) ∧
    (1 ≤ (200#8).toNat ∧ (200#8).toNat ≤ 200) := by decide

/-- For a byte taken, a host command and a transfer on `tx`. -/
theorem witness_StepRunsTheDecodedInstruction :
    (let s := withMoves [.linkRx, .ticker] midFrame
     s.moves = .linkRx :: [.ticker] ∧ s.presented .linkRx = some (.rxTransfer 0x1E#8) ∧
     decode ⟨s.enc.state, s.dec.state, .rxTransfer 0x1E#8⟩ = .op (.decDataByte 0x1E#8)) ∧
    (let s := withMoves [.host (.crcByte 0x03#8)] midFrame
     s.moves = .host (.crcByte 0x03#8) :: [] ∧ s.presented (.host (.crcByte 0x03#8)) = some (.host (.crcByte 0x03#8)) ∧
     decode ⟨s.enc.state, s.dec.state, .host (.crcByte 0x03#8)⟩ = .op (.crcByte 0x03#8)) ∧
    (let s := withMoves [.linkTx] midFrame
     s.moves = .linkTx :: [] ∧ s.presented .linkTx = some .txTransfer ∧
     decode ⟨s.enc.state, s.dec.state, .txTransfer⟩ = .op .encEmitData) := by decide

theorem witness_OffersThatMeetNoPartnerAreNotTaken :
    (let s := withItems [.byte 0xAA#8] [.linkRx] doneD1
     s.moves = .linkRx :: [] ∧ s.dec.busy = false) ∧
    (let s := withMoves [.linkTx] State.reset
     s.moves = .linkTx :: [] ∧ s.enc.state = .idle) := by decide

theorem witness_WaitingChangesNothing :
    midFrame.moves = [] ∧
    (let s := withItems [] [.linkRx] midFrame
     s.moves = .linkRx :: [] ∧ s.rxStream = []) := by decide

/-- In the payload, and with all of a payload of 200 bytes read. -/
theorem witness_EveryReadConsumesOneItem :
    (let s := withMoves [.linkRx] midFrame
     s.moves = .linkRx :: [] ∧ s.rxStream = .byte 0x1E#8 :: [.byte 0xE4#8] ∧ s.dec.busy = true) ∧
    (let s := withItems [.byte 0x00#8] [.linkRx] (decAt .readChecksum .noOutcome 200 0 200 0 0 1 3 [])
     s.moves = .linkRx :: [] ∧ s.rxStream = .byte 0x00#8 :: [] ∧ s.dec.busy = true ∧ s.dec.rxCnt.toNat = 200) ∧
    (let s := withItems [.timeout] [.linkRx] (decAt .readEnd .noOutcome 200 0 200 0 0 1 3 [])
     s.moves = .linkRx :: [] ∧ s.rxStream = .timeout :: [] ∧ s.dec.busy = true ∧ s.dec.rxCnt.toNat = 200) := by decide

theorem witness_EveryTransferTakesTxData :
    (let s := withMoves [.linkTx] midFrame
     s.moves = .linkTx :: [] ∧ s.txData = some 0x14#8) ∧
    (let s := withMoves [.linkTx] (encAt .emitEnd 255 255 0x08 [])
     s.moves = .linkTx :: [] ∧ s.txData = some 0x55#8) := by decide

theorem witness_SelectionOfEveryOperationDecodesToIt :
    (Instr.decLenOk 200#8).wellFormed = true ∧ (Instr.decLenBad 201#8).wellFormed = true ∧
    (Instr.decSeekSkip 0x55#8).wellFormed = true ∧ (Instr.decEndBad 0xAA#8).wellFormed = true := by decide

theorem witness_DecodedSelectionIsTheOperationsOwn :
    decode ⟨.emitLen, .readLength, .rxTransfer 200#8⟩ = .op (.decLenOk 200#8) := by decide

theorem witness_RxRowsPartitionTheBytes :
    (DecState.readLength ≠ .idle ∧ DecState.readLength ≠ .done) ∧
    (DecState.idle = .idle ∨ DecState.idle = .done) ∧ (DecState.done = .idle ∨ DecState.done = .done) := by decide

/-- With an operation of each unit, each of which leaves the other two alone. -/
theorem witness_UnitsWriteOnlyTheirOwnState :
    (∃ t, exec (.crcByte 0x03#8) midFrame = .next t ∧ unitOf (.crcByte 0x03#8) ≠ .enc ∧
      unitOf (.crcByte 0x03#8) ≠ .dec ∧ unitOf (.crcByte 0x03#8) ≠ .all) ∧
    (∃ t, exec .encEmitData midFrame = .next t ∧ unitOf .encEmitData ≠ .crc0 ∧ unitOf .encEmitData ≠ .dec ∧
      unitOf .encEmitData ≠ .all) ∧
    (∃ t, exec (.decDataByte 0x1E#8) midFrame = .next t ∧ unitOf (.decDataByte 0x1E#8) ≠ .crc0 ∧
      unitOf (.decDataByte 0x1E#8) ≠ .enc ∧ unitOf (.decDataByte 0x1E#8) ≠ .all) :=
  ⟨⟨_, rfl, by decide⟩, ⟨_, rfl, by decide⟩, _, rfl, by decide⟩

theorem witness_OperationsOfDifferentUnitsCommute :
    unitOf .encEmitData ≠ unitOf (.decDataByte 0x1E#8) ∧ unitOf .encEmitData ≠ .all ∧
    unitOf (.decDataByte 0x1E#8) ≠ .all ∧
    (∃ a, exec .encEmitData midFrame = .next a) ∧ (∃ b, exec (.decDataByte 0x1E#8) midFrame = .next b) :=
  ⟨by decide, by decide, by decide, ⟨_, rfl⟩, _, rfl⟩

theorem witness_EveryStepKeepsTheInvariant :
    ∃ t, (withMoves [.linkRx] midFrame).Inv ∧ step (withMoves [.linkRx] midFrame) = .next t :=
  ⟨_, midFrame_inv, rfl⟩

/-- Each of the reads it excepts, in a state where it is refused. -/
theorem witness_OnlyReadsOfResultsStop :
    (exec .decResult midFrame = .refused .resultsInMotion ∧ midFrame.dec.busy = true) ∧
    (exec (.decRdbuf 0) midFrame = .refused .bufferInMotion ∧ midFrame.dec.state ≠ .done) ∧
    (exec (.decRdbuf 3) doneD1 = .refused .noPayloadByte ∧ doneD1.dec.rxCnt.toNat ≤ (3#8).toNat) ∧
    (withMoves [.host .decResult] midFrame).moves.head? = some (.host .decResult) :=
  ⟨⟨rfl, rfl⟩, ⟨rfl, by decide⟩, ⟨rfl, by decide⟩, rfl⟩

theorem witness_PayloadIsFrozenWhileEmitting :
    ∃ t, step (withMoves [.host .encClear] midFrame) = .next t ∧ (withMoves [.host .encClear] midFrame).enc.state ≠ .idle :=
  ⟨_, rfl, by decide⟩

theorem witness_DecoderMovesOnlyAlongItsEdges :
    ∃ t, step (withMoves [.linkRx] midFrame) = .next t ∧ t.dec.state ≠ midFrame.dec.state :=
  ⟨_, rfl, by decide⟩

/-- A read that times out in `ReadPayload`, and a rejected length. -/
theorem witness_TerminalEntryKeepsTheRegisters :
    (∃ t, step (withItems [.timeout] [.linkRx] midFrame) = .next t ∧ midFrame.dec.busy = true ∧ t.dec.state = .done) ∧
    (let s := withItems [.byte 0xC9#8] [.linkRx] (decAt .readLength .noOutcome 0 0 0 0 0 1 3 [])
     ∃ t, step s = .next t ∧ s.dec.busy = true ∧ t.dec.state = .done) :=
  ⟨⟨_, rfl, by decide, by decide⟩, _, rfl, by decide, by decide⟩

theorem witness_OutcomeIsStableInDone :
    (∃ t, step (withMoves [.host (.decSetTmo 9)] doneD1) = .next t ∧ doneD1.dec.state = .done) ∧
    (∃ t, step (withMoves [.host .decStart] doneD1) = .next t ∧ doneD1.dec.state = .done) :=
  ⟨⟨_, rfl, rfl⟩, _, rfl, rfl⟩

theorem witness_RangeErrorIsNeverProduced :
    let s := withItems [.byte 0x55#8] [.linkRx] (decAt .readEnd .noOutcome 3 0 3 0xE4 0xE4 1 3 buf3)
    ∃ t, step s = .next t ∧ s.dec.status ≠ .rangeError := ⟨_, rfl, by decide⟩

/-- With no value and with one. -/
theorem witness_EncodeRunEmitsTheFrame :
    (let s := withMoves (loadMoves [] ++ List.replicate 4 .linkTx ++ [.ticker]) State.reset
     ([] : List PushValue).length ≤ 255 ∧ s.enc.state = .idle ∧
     s.moves = loadMoves [] ++ List.replicate (0 + 4) .linkTx ++ [.ticker]) ∧
    (let s := withMoves (loadMoves [300] ++ List.replicate 5 .linkTx ++ [.ticker]) State.reset
     ([300] : List PushValue).length ≤ 255 ∧ s.enc.state = .idle ∧
     s.moves = loadMoves [300] ++ List.replicate (1 + 4) .linkTx ++ [.ticker]) := by decide

/-- The moves before `ENC.START` of an `ENCODE [300, 7]`, LINK_TX and the decoder's agents moving among them. -/
def mixedLoad : List Move :=
  [.linkTx, .host .encClear, .host .decStart, .host (.encPush 300), .ticker, .linkTx, .host (.encPush 7)]

/-- The moves after it, up to the last transfer, the host giving the busy encoder every command it has. -/
def mixedEmit : List Move :=
  [.linkTx, .host .encClear, .linkTx, .host (.encPush 9), .host (.crcByte 0x03#8), .linkTx, .linkTx, .host .encStart, .linkTx]

theorem witness_EncoderEmitsTheFrameWhateverElseHappens :
    let s := withMoves (mixedLoad ++ .host .encStart :: (mixedEmit ++ .linkTx :: ([.ticker, .linkTx] ++ [.linkRx]))) State.reset
    ∃ t, ([300, 7] : List PushValue).length ≤ 255 ∧ s.enc.state = .idle ∧
      s.moves = mixedLoad ++ .host .encStart :: (mixedEmit ++ .linkTx :: ([.ticker, .linkTx] ++ [.linkRx])) ∧
      .reset ∉ mixedLoad ++ mixedEmit ++ [.ticker, .linkTx] ∧
      mixedLoad.filter isEncCommand =
        .host .encClear :: ([300, 7] : List PushValue).map (fun v => .host (.encPush v)) ∧
      mixedEmit.count .linkTx = ([300, 7] : List PushValue).length + 3 ∧
      [Move.ticker, .linkTx].filter isEncCommand = [] ∧
      run (mixedLoad.length + mixedEmit.length + 2 + 2) s = .next t :=
  ⟨_, by decide, rfl, rfl, by decide, rfl, by decide, rfl, rfl⟩

/-- D7 for an attempt that ends, its first two bytes for one that does not. -/
theorem witness_DecoderComputesTheAttempt :
    (let items : List LinkItem := [0xAA#8, 0x01#8, 0x07#8, 0x00#8, 0x55#8].map .byte
     let s := withItems items (decodeMoves 5) State.reset
     s.dec.busy = false ∧ s.rxStream = items ∧ attempt items = some ⟨[0x07#8], .success, 5⟩ ∧
     s.moves = decodeMoves 5 ++ []) ∧
    (let items : List LinkItem := [0xAA#8, 0x01#8].map .byte
     let s := withItems items (decodeMoves 2) doneD1
     s.dec.busy = false ∧ s.rxStream = items ∧ attempt items = none ∧ s.moves = decodeMoves items.length ++ []) := by
  decide +kernel

/-- The moves of a `DECODE` whose five reads end in the bytes of D7, a tick among them. -/
def readMoves : List Move := [.linkRx, .ticker, .linkRx, .linkRx, .linkRx, .linkRx]

/-- D7 with a tick that leaves time enough, and with a second one that does not (the first read of a timer of 1); then no items,
where only the ticks are left to end the attempt. -/
theorem witness_DecodeReadsTheOutcomeOfTheAttempt :
    (let s := withItems ([0xAA#8, 0x01#8, 0x07#8, 0x00#8, 0x55#8].map .byte)
        (.host .decStart :: readMoves ++ readOutMoves 1) (decAt .idle .noOutcome 0 0 0 0 0 0 2 [])
     s.dec.busy = false ∧ decodeExpansion (readMoves ++ [.ticker]) s = some (.host .decStart :: readMoves ++ readOutMoves 1) ∧
     s.moves = .host .decStart :: readMoves ++ readOutMoves 1 ++ []) ∧
    (let s := withItems ([0xAA#8, 0x01#8, 0x07#8, 0x00#8, 0x55#8].map .byte)
        [.host .decStart, .linkRx, .ticker, .host .decResult, .linkTx] (decAt .idle .noOutcome 0 0 0 0 0 0 1 [])
     s.dec.busy = false ∧
     decodeExpansion readMoves s = some [.host .decStart, .linkRx, .ticker, .host .decResult] ∧
     s.moves = [.host .decStart, .linkRx, .ticker, .host .decResult] ++ [.linkTx]) ∧
    decodeExpansion [.ticker] doneD1 = none ∧
    decodeExpansion (List.replicate 5 .ticker) doneD1 =
      some (.host .decStart :: List.replicate 5 .ticker ++ [.host .decResult]) := by
  decide +kernel

/-- Payloads of 1 and of 200 bytes, and noise with no start marker in it. -/
theorem witness_FrameIsRecovered :
    (1 ≤ [0x07#8].length ∧ [0x07#8].length ≤ 200 ∧ 0xAA#8 ∉ [0x00#8, 0x55#8]) ∧
    (1 ≤ (List.replicate 200 0x00#8).length ∧ (List.replicate 200 0x00#8).length ≤ 200 ∧ 0xAA#8 ∉ ([] : List Byte)) := by
  rw [List.length_replicate]; decide

theorem witness_WrongChecksumIsMismatch :
    (1 ≤ [0x07#8].length ∧ [0x07#8].length ≤ 200 ∧ (1#8).toNat = [0x07#8].length ∧
      0x01#8 ≠ crc8 [0x01#8, 0x07#8] ∧ 0 < 8 ∧ 7 < 8) ∧
    (1 ≤ (List.replicate 200 0x00#8).length ∧ (List.replicate 200 0x00#8).length ≤ 200 ∧
      (200#8).toNat = (List.replicate 200 0x00#8).length) := by
  rw [List.length_replicate]; decide +kernel

theorem encodeFrame_of_length_le (p : List Int) (h : p.length ≤ 255) : encodeFrame p = some (frame (p.map clamp)) :=
  if_pos h

theorem witness_LengthBoundaries :
    ((0#8).toNat = 0 ∧ 200 < (201#8).toNat) ∧
    (encodeFrame [] = some [0xAA#8, 0x00#8, 0x00#8, 0x55#8] ∧ ([] : List Int).length = 0) ∧
    (∃ bytes, encodeFrame (List.replicate 201 0) = some bytes ∧ 200 < (List.replicate 201 (0 : Int)).length) ∧
    (1 ≤ (1#8).toNat ∧ (1#8).toNat ≤ 200) ∧ (1 ≤ (200#8).toNat ∧ (200#8).toNat ≤ 200) :=
  ⟨by decide, by decide +kernel,
   ⟨_, encodeFrame_of_length_le _ (by rw [List.length_replicate]; decide), by rw [List.length_replicate]; decide⟩, by decide, by decide⟩

theorem witness_EndMarkerIsTestedBeforeTheChecksum :
    (1 ≤ [0x07#8].length ∧ [0x07#8].length ≤ 200 ∧ (1#8).toNat = [0x07#8].length ∧ 0x54#8 ≠ 0x55#8) ∧
    (1 ≤ (List.replicate 200 0x00#8).length ∧ (List.replicate 200 0x00#8).length ≤ 200 ∧
      (200#8).toNat = (List.replicate 200 0x00#8).length) := by
  rw [List.length_replicate]; decide

theorem witness_AttemptIsBoundedPastTheStartMarker :
    203 ≤ (List.replicate 203 (LinkItem.byte 0xC8#8)).length ∧ 0xAA#8 ∉ [0x00#8, 0x13#8, 0x55#8, 0xFF#8] := by
  rw [List.length_replicate]; decide

/-- The encoder's run for the one value 7 (E6). -/
def oneValueRun : State := withMoves (loadMoves [7] ++ List.replicate 5 .linkTx) State.reset

/-- The decoder's run over the frame of the value 7. -/
def oneFrameRun : State :=
  withItems ([0xAA#8, 0x01#8, 0x07#8, 0x00#8, 0x55#8].map .byte) (decodeMoves 5) State.reset

/-- The same with ticks among the reads, and after the last read. -/
def tickedFrameRun : State :=
  withItems ([0xAA#8, 0x01#8, 0x07#8, 0x00#8, 0x55#8].map .byte)
    [.host .decStart, .ticker, .linkRx, .linkRx, .ticker, .linkRx, .linkRx, .linkRx, .ticker]
    (decAt .idle .noOutcome 0 0 0 0 0 0 2 [])

theorem oneValueRun_linkEvents :
    linkEvents 8 oneValueRun = [0xAA#8, 0x01#8, 0x07#8, 0x00#8, 0x55#8].map .taken := by decide +kernel

theorem witness_RoundTripOverALosslessLink :
    1 ≤ ([7] : List PushValue).length ∧ ([7] : List PushValue).length ≤ 200 ∧ oneValueRun.enc.state = .idle ∧
    oneValueRun.moves = loadMoves [7] ++ List.replicate (1 + 4) .linkTx ∧
    (oneFrameRun.dec.busy = false ∧ oneFrameRun.moves = decodeMoves (1 + 4) ∧
      lossless (linkEvents 8 oneValueRun) oneFrameRun.rxStream) ∧
    (∃ w, tickedFrameRun.dec.busy = false ∧ tickedFrameRun.moves = .host .decStart :: tickedFrameRun.moves.tail ∧
      (∀ m ∈ tickedFrameRun.moves.tail, isDriveMove m = true) ∧ run 9 tickedFrameRun = .next w ∧ w.decDone = true ∧
      lossless (linkEvents 8 oneValueRun ++ linkEvents 9 tickedFrameRun) w.rxStream) ∧
    (∀ v ∈ ([7] : List PushValue), 0 ≤ sext v ∧ sext v ≤ 255) :=
  ⟨by decide, by decide, rfl, by decide,
   ⟨rfl, by decide, _, 0, by rw [oneValueRun_linkEvents]; rfl, rfl⟩,
   ⟨_, rfl, rfl, by decide, rfl, rfl, [], 0, by decide +kernel, rfl⟩, List.forall_mem_singleton.mpr (by decide)⟩

/-- A tick that ends a read with a byte undelivered is no run over a lossless Link; one after the last byte is. -/
theorem test_lossless_and_timeouts :
    undelivered [] [.taken 0xAA#8, .timedOut] = none ∧
    undelivered [] [.taken 0xAA#8, .delivered 0xAA#8, .timedOut] = some [] ∧
    undelivered [] [.taken 0xAA#8, .delivered 0x55#8] = none ∧
    linkEvents 3 (withItems [.byte 0x13#8] [.ticker, .linkRx, .ticker] (decAt .seekStart .noOutcome 0 0 0 0 0 2 3 [])) =
      [.delivered 0x13#8] ∧
    linkEvents 2 (withMoves [.ticker, .ticker] (decAt .seekStart .noOutcome 0 0 0 0 0 2 3 [])) = [.timedOut] := by
  decide +kernel

end Sys2Proof.Tests
end

section
/-! PROOFS. The reset values (R46): the flags of an idle unit (R27, R38), then the table. -/

namespace Sys2Proof.Machine

/-- R27: an idle encoder with an empty buffer is ready for a push and offers nothing to LINK_TX. -/
theorem State.encFlags_of_idle_of_txCnt_eq_zero {s : State} (hst : s.enc.state = .idle) (hcnt : s.enc.txCnt = 0x00#8) :
    s.encBusy = false ∧ s.encPushReady = true ∧ s.txValid = false := by
  have hready : s.encPushReady = true := (Enc.pushReady_iff s.enc).mpr ⟨hst, by simp [hcnt]⟩
  exact ⟨by simp [State.encBusy, hst], hready, by simp [State.txValid, hst]⟩

/-- R38: an idle decoder reads nothing and shows no outcome. -/
theorem State.decFlags_of_idle {s : State} (hst : s.dec.state = .idle) :
    s.decBusy = false ∧ s.decDone = false ∧ s.rxReady = false := by
  have hbusy : s.dec.busy = false := (Dec.busy_eq_false_iff s.dec).mpr (.inl hst)
  exact ⟨hbusy, by simp [State.decDone, hst], hbusy⟩

/-- Settles O28: the registers are the fields of the two reset records, and the flags are those of idle units. -/
theorem resetStateHoldsTheTable : Obligations.ResetStateHoldsTheTable := by
  obtain ⟨hencBusy, hpushReady, htxValid⟩ :=
    State.encFlags_of_idle_of_txCnt_eq_zero (s := State.reset) rfl rfl
  obtain ⟨hdecBusy, hdecDone, hrxReady⟩ := State.decFlags_of_idle (s := State.reset) rfl
  exact ⟨rfl,
    rfl, rfl, rfl, rfl,
    rfl, rfl, rfl, rfl, rfl, rfl, rfl, rfl, rfl,
    hencBusy, hpushReady, htxValid, hdecBusy, hdecDone, hrxReady⟩

end Sys2Proof.Machine
end

section
/-! PROOFS. The decoder's rows (R97, R99): which bytes a row's ranges hold, then each reading state's rows as either one row
of all bytes or two complementary ones, and the partition. -/

namespace Sys2Proof.Machine

theorem RxRow.covers_iff (r : RxRow) (b : Byte) :
    r.covers b = true ↔ ∃ lh ∈ r.ranges, lh.1 ≤ b.toNat ∧ b.toNat ≤ lh.2 := by
  simp [RxRow.covers]

/-- A row of a marker alone holds that marker. -/
theorem RxRow.covers_marker_iff {r : RxRow} {m : Byte} (hr : r.ranges = [(m.toNat, m.toNat)]) (b : Byte) :
    r.covers b = true ↔ b = m := by
  rw [RxRow.covers_iff, hr, ← BitVec.toNat_inj]
  simp only [List.mem_singleton, exists_eq_left]
  omega

/-- A row of the ranges below and above a marker holds every other byte. -/
theorem RxRow.covers_nonMarker_iff {r : RxRow} {m : Byte} (hm : 0 < m.toNat)
    (hr : r.ranges = [(0, m.toNat - 1), (m.toNat + 1, 255)]) (b : Byte) : r.covers b = true ↔ ¬ b = m := by
  rw [RxRow.covers_iff, hr, ← BitVec.toNat_inj]
  simp only [List.mem_cons, List.not_mem_nil, or_false, exists_eq_or_imp, exists_eq_left]
  omega

/-- The row of `DEC.LEN.OK` holds the legal lengths (R175). -/
theorem RxRow.covers_legalLength_iff {r : RxRow} (hr : r.ranges = [(1, 200)]) (b : Byte) :
    r.covers b = true ↔ lengthLegal b = true := by
  simp [RxRow.covers_iff, hr]

/-- The row of `DEC.LEN.BAD` holds the others: 0 and those above 200 (R176). -/
theorem RxRow.covers_illegalLength_iff {r : RxRow} (hr : r.ranges = [(0, 0), (201, 255)]) (b : Byte) :
    r.covers b = true ↔ ¬ lengthLegal b = true := by
  rw [RxRow.covers_iff, hr, lengthLegal_iff]
  simp only [List.mem_cons, List.not_mem_nil, or_false, exists_eq_or_imp, exists_eq_left]
  omega

theorem RxRow.covers_of_all {r : RxRow} (hr : r.ranges = [(0, 255)]) (b : Byte) : r.covers b = true := by
  rw [RxRow.covers_iff, hr]
  exact ⟨(0, 255), List.mem_singleton_self _, Nat.zero_le _, Nat.le_of_lt_succ b.isLt⟩

/-- In the state `d` the byte `b` lies in exactly one row, and that row's operation is the one the decoder selects (R97). -/
def SelectsItsOnlyRow (d : DecState) (b : Byte) : Prop :=
  ∃ r, rxRows.filter (fun r => decide (r.state = d) && r.covers b) = [r] ∧ decodeRx d b = .op (r.op b)

/-- The rows that hold a byte in a state are those of the state's rows that hold it. -/
theorem rxRows_filter_state_and_covers (d : DecState) (b : Byte) :
    rxRows.filter (fun r => decide (r.state = d) && r.covers b) =
      (rxRows.filter fun r => decide (r.state = d)).filter fun r => r.covers b := by
  simp only [List.filter_filter, Bool.and_comm]

theorem selectsItsOnlyRow_of_one {d : DecState} {b : Byte} {r : RxRow}
    (hrows : rxRows.filter (fun r => decide (r.state = d)) = [r]) (hcovers : r.covers b = true)
    (hdecode : decodeRx d b = .op (r.op b)) : SelectsItsOnlyRow d b := by
  refine ⟨r, ?_, hdecode⟩
  rw [rxRows_filter_state_and_covers, hrows]
  simp [hcovers]

/-- Two rows that a test `p` of the byte tells apart, the same test that the decoder makes. -/
theorem selectsItsOnlyRow_of_two {d : DecState} {b : Byte} {r r' : RxRow} {p : Prop}
    (hrows : rxRows.filter (fun r => decide (r.state = d)) = [r, r'])
    (hr : r.covers b = true ↔ p) (hr' : r'.covers b = true ↔ ¬ p)
    (hpos : p → decodeRx d b = .op (r.op b)) (hneg : ¬ p → decodeRx d b = .op (r'.op b)) :
    SelectsItsOnlyRow d b := by
  by_cases hp : p
  · refine ⟨r, ?_, hpos hp⟩
    have hout : ¬ r'.covers b = true := fun h => hr'.mp h hp
    rw [rxRows_filter_state_and_covers, hrows]
    simp [hr.mpr hp, hout]
  · refine ⟨r', ?_, hneg hp⟩
    have hout : ¬ r.covers b = true := fun h => hp (hr.mp h)
    rw [rxRows_filter_state_and_covers, hrows]
    simp [hr'.mpr hp, hout]

/-- The table is total and disjoint in the reading states, and is what the decoder does there. -/
theorem selectsItsOnlyRow_of_reading {d : DecState} (hidle : d ≠ .idle) (hdone : d ≠ .done) (b : Byte) :
    SelectsItsOnlyRow d b := by
  cases d with
  | idle => exact absurd rfl hidle
  | seekStart =>
    exact selectsItsOnlyRow_of_two rfl (RxRow.covers_marker_iff (m := Config.startMarker) rfl b)
      (RxRow.covers_nonMarker_iff (by decide) rfl b) (fun h => if_pos h) (fun h => if_neg h)
  | readLength =>
    exact selectsItsOnlyRow_of_two rfl (RxRow.covers_legalLength_iff rfl b) (RxRow.covers_illegalLength_iff rfl b)
      (fun h => if_pos h) (fun h => if_neg h)
  | readPayload => exact selectsItsOnlyRow_of_one rfl (RxRow.covers_of_all rfl b) rfl
  | readChecksum => exact selectsItsOnlyRow_of_one rfl (RxRow.covers_of_all rfl b) rfl
  | readEnd =>
    exact selectsItsOnlyRow_of_two rfl (RxRow.covers_marker_iff (m := Config.endMarker) rfl b)
      (RxRow.covers_nonMarker_iff (by decide) rfl b) (fun h => if_pos h) (fun h => if_neg h)
  | done => exact absurd rfl hdone

/-- R186: between attempts no row holds a byte, and the decoder takes none. -/
theorem rxRows_eq_nil_of_not_reading {d : DecState} (h : d = .idle ∨ d = .done) (b : Byte) :
    rxRows.filter (fun r => decide (r.state = d) && r.covers b) = [] ∧ decodeRx d b = .reject .rxNotReady := by
  obtain rfl | rfl := h
  · exact ⟨rfl, rfl⟩
  · exact ⟨rfl, rfl⟩

/-- Settles O39: a reading state's rows are one row of all bytes or two that the decoder's own test tells apart; `Idle` and
`Done` have none; what a TimeoutSignal selects is `decodeTimeout`, read off state by state (R97, R98, R223). -/
theorem rxRowsPartitionTheBytes : Obligations.RxRowsPartitionTheBytes :=
  ⟨fun _ b => ⟨fun hidle hdone => selectsItsOnlyRow_of_reading hidle hdone b,
      fun h => rxRows_eq_nil_of_not_reading h b⟩,
    rfl, rfl, rfl, rfl, rfl, rfl, rfl⟩

end Sys2Proof.Machine
end

section
/-! PROOFS. The checksum functions (R121 to R123, R128): one bit step by its bits and by its number, what eight of them keep
of that (linearity, injectivity, the parallel logic), and the two operations of CRC0 that write the accumulator. -/

namespace Sys2Proof.Machine

/-! The bit step (R121). -/

theorem crcBit_of_msb {a : Byte} (h : a.getLsbD 7 = true) : crcBit a = a <<< 1 ^^^ Config.poly := if_pos h

theorem crcBit_of_not_msb {a : Byte} (h : a.getLsbD 7 = false) : crcBit a = a <<< 1 :=
  if_neg (Bool.eq_false_iff.mp h)

theorem toNat_shiftLeft_one (a : Byte) : (a <<< 1).toNat = 2 * a.toNat % 256 := by
  rw [BitVec.toNat_shiftLeft, Nat.shiftLeft_eq, Nat.mul_comm]

theorem xor_mod_256 (m n : Nat) : (m ^^^ n) % 256 = m % 256 ^^^ n % 256 := Nat.xor_mod_two_pow (n := 8)

/-- R121 over the natural numbers. -/
theorem crcBit_toNat (a : Byte) : (crcBit a).toNat =
    if a.getLsbD 7 then ((2 * a.toNat) ^^^ 0x07) % 256 else (2 * a.toNat) % 256 := by
  cases h : a.getLsbD 7 with
  | true => rw [crcBit_of_msb h, BitVec.toNat_xor, toNat_shiftLeft_one, if_pos rfl, xor_mod_256]; rfl
  | false => rw [crcBit_of_not_msb h, toNat_shiftLeft_one, if_neg Bool.false_ne_true]

/-- R121 over bytes, in which 256 is 0 and a reduction modulo 0 changes nothing. -/
theorem crcBit_toNat_cast (a : Byte) : ((crcBit a).toNat : Byte) =
    if a.getLsbD 7 then (2 * (a.toNat : Byte) ^^^ 0x07#8) % 256 else 2 * (a.toNat : Byte) % 256 := by
  have hmod (x : Byte) : x % 256 = x := BitVec.umod_zero
  rw [crcBit_toNat, hmod, hmod]
  refine BitVec.eq_of_toNat_eq ?_
  split
  · simp [xor_mod_256]
  · simp

theorem crcBit_getLsbD (a : Byte) (i : Nat) :
    (crcBit a).getLsbD i = ((a <<< 1).getLsbD i ^^ (a.getLsbD 7 && Config.poly.getLsbD i)) := by
  cases h : a.getLsbD 7 with
  | true => rw [crcBit_of_msb h, BitVec.getLsbD_xor, Bool.true_and]
  | false => rw [crcBit_of_not_msb h, Bool.false_and, Bool.xor_false]

/-- The generator has its lowest bit set, so a bit step keeps the old bit 7 there. -/
theorem crcBit_getLsbD_zero (a : Byte) : (crcBit a).getLsbD 0 = a.getLsbD 7 := by
  rw [crcBit_getLsbD]
  simp

/-- The generator is `0b111`: above its lowest bit it feeds bit 7 back into bits 1 and 2. -/
theorem poly_getLsbD_succ : ∀ i < 7, Config.poly.getLsbD (i + 1) = decide (i < 2) := by decide

theorem crcBit_getLsbD_succ (a : Byte) {i : Nat} (hi : i < 7) :
    (crcBit a).getLsbD (i + 1) = (a.getLsbD i ^^ (a.getLsbD 7 && decide (i < 2))) := by
  have hwidth : i + 1 < 8 := by omega
  rw [crcBit_getLsbD, BitVec.getLsbD_shiftLeft, poly_getLsbD_succ i hi]
  simp [hwidth]

theorem crcBit_xor (x y : Byte) : crcBit (x ^^^ y) = crcBit x ^^^ crcBit y := by
  refine BitVec.eq_of_getLsbD_eq fun i _ => ?_
  simp only [crcBit_getLsbD, BitVec.shiftLeft_xor_distrib, BitVec.getLsbD_xor, Bool.and_xor_distrib_right,
    Bool.xor_assoc, Bool.xor_left_comm]

/-- A bit step loses nothing: bit 7 goes to bit 0, and with it known the feedback is undone in the other bits. -/
theorem crcBit_injective : Function.Injective crcBit := by
  intro x y hxy
  have hmsb : x.getLsbD 7 = y.getLsbD 7 := by
    rw [← crcBit_getLsbD_zero, hxy, crcBit_getLsbD_zero]
  refine BitVec.eq_of_getLsbD_eq fun i hi => ?_
  obtain hlow | rfl : i < 7 ∨ i = 7 := by omega
  · have hbit : (crcBit x).getLsbD (i + 1) = (crcBit y).getLsbD (i + 1) := by rw [hxy]
    rw [crcBit_getLsbD_succ x hlow, crcBit_getLsbD_succ y hlow, hmsb] at hbit
    exact Bool.xor_left_inj.mp hbit
  · exact hmsb

/-! The bit steps and the byte step (R122, R128). -/

theorem crcBits_eq_iterate (n : Nat) (a : Byte) : crcBits n a = crcBit^[n] a := by
  induction n generalizing a with
  | zero => rfl
  | succ n ih => exact ih (crcBit a)

theorem crcBits_xor (n : Nat) (x y : Byte) : crcBits n (x ^^^ y) = crcBits n x ^^^ crcBits n y := by
  induction n generalizing x y with
  | zero => rfl
  | succ n ih => simp only [crcBits, crcBit_xor, ih]

theorem crcBits_injective (n : Nat) : Function.Injective (crcBits n) := by
  rw [funext (crcBits_eq_iterate n)]
  exact crcBit_injective.iterate n

theorem crcByte_zero_left (b : Byte) : crcByte 0x00#8 b = crcBits 8 b := by
  rw [crcByte, BitVec.zero_xor]

/-- R128 a. -/
theorem crcByte_eq_crcByte_zero_xor (a b : Byte) : crcByte a b = crcByte 0x00#8 (a ^^^ b) :=
  (crcByte_zero_left (a ^^^ b)).symm

/-- R128 b. -/
theorem crcByte_zero_xor (x y : Byte) : crcByte 0x00#8 (x ^^^ y) = crcByte 0x00#8 x ^^^ crcByte 0x00#8 y := by
  simp only [crcByte_zero_left, crcBits_xor]

theorem crcByte_zero_injective : Function.Injective (crcByte 0x00#8) := by
  rw [funext crcByte_zero_left]
  exact crcBits_injective 8

/-- R128 d: an injection of the bytes, of which there are finitely many, into themselves. -/
theorem crcByte_zero_bijective : Function.Bijective (crcByte 0x00#8) :=
  Finite.injective_iff_bijective.mp crcByte_zero_injective

/-- R128 c: each bit of the result followed back through the eight bit steps; what is fed back twice cancels. -/
theorem crcByte_parallel (a b : Byte) :
    let d := fun i => (a ^^^ b).getLsbD i
    let n := fun i => (crcByte a b).getLsbD i
    n 0 = (d 7 ^^ d 6 ^^ d 0) ∧
    n 1 = (d 6 ^^ d 1 ^^ d 0) ∧
    n 2 = (d 6 ^^ d 2 ^^ d 1 ^^ d 0) ∧
    n 3 = (d 7 ^^ d 3 ^^ d 2 ^^ d 1) ∧
    n 4 = (d 4 ^^ d 3 ^^ d 2) ∧
    n 5 = (d 5 ^^ d 4 ^^ d 3) ∧
    n 6 = (d 6 ^^ d 5 ^^ d 4) ∧
    n 7 = (d 7 ^^ d 6 ^^ d 5) := by
  simp only [crcByte, crcBits]
  generalize a ^^^ b = x
  simp only [crcBit_getLsbD_zero, crcBit_getLsbD_succ, Nat.reduceLT, decide_true, decide_false, Bool.and_true,
    Bool.and_false, Bool.xor_false]
  simp only [Bool.xor_assoc, Bool.xor_comm, Bool.xor_left_comm, Bool.xor_self, Bool.false_xor, and_self]

/-- Settles O2: a bit step is linear and injective, so eight of them are; the generators are eight values of `T`; the
parallel logic is the bit step's bits, eight steps on. -/
theorem checksumEquivalentForms : Obligations.ChecksumEquivalentForms := by
  have hgenerators : [0x01#8, 0x02#8, 0x04#8, 0x08#8, 0x10#8, 0x20#8, 0x40#8, 0x80#8].map (crcByte 0x00#8) =
      [0x07#8, 0x0E#8, 0x1C#8, 0x38#8, 0x70#8, 0xE0#8, 0xC7#8, 0x89#8] := by decide
  exact ⟨crcByte_eq_crcByte_zero_xor, crcByte_zero_xor, rfl, hgenerators, crcByte_parallel, crcByte_zero_bijective⟩

/-- Settles O1: the bit step by its number, the byte step as an iterate, the sequence as a fold. -/
theorem checksumFollowsTheAlgorithm : Obligations.ChecksumFollowsTheAlgorithm :=
  ⟨crcBit_toNat_cast, fun a b => crcBits_eq_iterate 8 (a ^^^ b), crc8_nil, crc8_concat⟩

/-! The operations of CRC0 that write the accumulator (R124, R125). -/

theorem exec_crcClr (s : State) : exec .crcClr s = .next (s.withCrc0 Config.crcInit) := rfl

theorem exec_crcByte (b : Byte) (s : State) : exec (.crcByte b) s = .next (s.withCrc0 (crcByte s.crc0 b)) := rfl

/-- Settles O4: the next state is the old one with `crc0` replaced by `CRC_INIT`. -/
theorem crcClearZeroesTheAccumulator : Obligations.CrcClearZeroesTheAccumulator := exec_crcClr

/-- Settles O5: the next state is the old one with `crc0` replaced by its byte step. -/
theorem crcByteStepsTheAccumulator : Obligations.CrcByteStepsTheAccumulator := fun s b => exec_crcByte b s

end Sys2Proof.Machine
end

section
/-! PROOFS. The encoder's operations (R141 to R150), one rule for each, under its guard and without it; then the statements
about one operation. -/

namespace Sys2Proof.Machine

/-! The guarded updates. -/

theorem onEnc_of_guard {c : Bool} (h : c = true) (e : Enc) (s : State) : onEnc c e s = .next (s.withEnc e) := by
  rw [h, onEnc_true]

theorem onEnc_of_not_guard {c : Bool} (h : ¬ c = true) (e : Enc) (s : State) : onEnc c e s = .next s := by
  rw [Bool.eq_false_iff.mpr h, onEnc_false]

theorem emitOn_of_guard {c : Bool} (h : c = true) (b : Byte) (e : Enc) (s : State) :
    emitOn c b e s = .next ((s.linkWrite b).withEnc e) := by
  rw [h, emitOn_true]

/-! The host's commands. -/

theorem exec_encClear_of_idle {s : State} (h : s.enc.state = .idle) :
    exec .encClear s = .next (s.withEnc s.enc.clear) :=
  onEnc_of_guard (s.enc.isIdle_iff.mpr h) _ s

theorem exec_encClear_of_not_idle {s : State} (h : s.enc.state ≠ .idle) : exec .encClear s = .next s :=
  onEnc_of_not_guard (mt s.enc.isIdle_iff.mp h) _ s

theorem exec_encPush_of_ready {s : State} (v : PushValue) (hst : s.enc.state = .idle) (hcnt : s.enc.txCnt.toNat < 255) :
    exec (.encPush v) s = .next (s.withEnc (s.enc.push (clamp (sext v)))) :=
  onEnc_of_guard (s.enc.pushReady_iff.mpr ⟨hst, hcnt⟩) _ s

theorem exec_encPush_of_not_ready {s : State} (v : PushValue) (h : ¬ (s.enc.state = .idle ∧ s.enc.txCnt.toNat < 255)) :
    exec (.encPush v) s = .next s :=
  onEnc_of_not_guard (mt s.enc.pushReady_iff.mp h) _ s

theorem exec_encStart_of_idle {s : State} (h : s.enc.state = .idle) :
    exec .encStart s = .next (s.withEnc s.enc.start) :=
  onEnc_of_guard (s.enc.isIdle_iff.mpr h) _ s

theorem exec_encStart_of_not_idle {s : State} (h : s.enc.state ≠ .idle) : exec .encStart s = .next s :=
  onEnc_of_not_guard (mt s.enc.isIdle_iff.mp h) _ s

/-! The emissions. -/

theorem exec_encEmitStart {s : State} (h : s.enc.state = .emitStart) :
    exec .encEmitStart s = .next ((s.linkWrite Config.startMarker).withEnc s.enc.afterStart) :=
  emitOn_of_guard (decide_eq_true h) _ _ s

theorem exec_encEmitLen {s : State} (h : s.enc.state = .emitLen) :
    exec .encEmitLen s = .next ((s.linkWrite s.enc.txCnt).withEnc s.enc.afterLen) :=
  emitOn_of_guard (decide_eq_true h) _ _ s

/-- R148, where the cell read is one that holds a byte. -/
theorem exec_encEmitData {s : State} {b : Byte} (h : s.enc.state = .emitPayload) (hidx : s.enc.txIdx.toNat < 255)
    (hb : Memory.read? s.enc.txbuf s.enc.txIdx.toNat = some b) :
    exec .encEmitData s = .next ((s.linkWrite b).withEnc (s.enc.afterData b)) := by
  obtain ⟨hbyte, hdraw⟩ := State.txByte_of_held hidx hb
  simp only [exec, execEncEmitData, if_pos h, hbyte, hdraw, emitOn_true]

theorem exec_encEmitChk {s : State} (h : s.enc.state = .emitChecksum) :
    exec .encEmitChk s = .next ((s.linkWrite s.enc.crc).withEnc s.enc.afterChk) :=
  emitOn_of_guard (decide_eq_true h) _ _ s

theorem exec_encEmitEnd {s : State} (h : s.enc.state = .emitEnd) :
    exec .encEmitEnd s = .next ((s.linkWrite Config.endMarker).withEnc s.enc.afterEnd) :=
  emitOn_of_guard (decide_eq_true h) _ _ s

/-! The flags and the counters. -/

/-- R27: an encoder in an emitting state offers a byte and takes no value. -/
theorem State.encFlags_of_not_idle {s : State} (h : s.enc.state ≠ .idle) :
    s.encBusy = true ∧ s.txValid = true ∧ s.encPushReady = false := by
  have hready : s.encPushReady = false := Bool.eq_false_iff.mpr fun hr => h (s.enc.pushReady_iff.mp hr).1
  exact ⟨decide_eq_true h, decide_eq_true h, hready⟩

/-- R27: an idle encoder is ready for a push exactly while its buffer is not full. -/
theorem State.encPushReady_of_idle {s : State} (h : s.enc.state = .idle) :
    s.encPushReady = decide (s.enc.txCnt.toNat < 255) := by
  rw [Bool.eq_iff_iff, decide_eq_true_iff]
  exact s.enc.pushReady_iff.trans (and_iff_right h)

/-- Below 255 a counter does not wrap. -/
theorem byte_toNat_add_one {x : Byte} (h : x.toNat < 255) : (x + 1#8).toNat = x.toNat + 1 := by
  rw [BitVec.toNat_add]
  exact Nat.mod_eq_of_lt (Nat.succ_lt_succ h)

/-! The statements. -/

/-- Settles O8: the three branches of `clamp`, the last of them a conversion of a number below 256. -/
theorem clampSaturates : Obligations.ClampSaturates := by
  intro v
  refine ⟨fun hneg => if_pos hneg, fun hbig => ?_, fun hnonneg hle => ?_⟩
  · rw [clamp, if_neg (by omega), if_pos hbig]
  · rw [clamp, if_neg (by omega), if_neg (by omega), BitVec.toNat_ofNat]
    omega

/-- Settles O9: the guard is `enc_state == Idle`, and an idle encoder with nothing loaded is ready. -/
theorem encoderClearEmptiesInIdle : Obligations.EncoderClearEmptiesInIdle := by
  intro s
  refine ⟨fun hidle => ⟨exec_encClear_of_idle hidle, ?_⟩, exec_encClear_of_not_idle⟩
  obtain ⟨-, hready, -⟩ :=
    State.encFlags_of_idle_of_txCnt_eq_zero (s := { s with enc := { s.enc with txCnt := 0x00#8 } }) hidle rfl
  exact hready

/-- Settles O10: the new buffer is the write at `tx_cnt`, which the laws of the buffers describe. -/
theorem encoderPushStoresTheClampedValue : Obligations.EncoderPushStoresTheClampedValue := by
  refine fun s v => ⟨fun hidle hcnt => ?_, fun hnot => exec_encPush_of_not_ready v ?_⟩
  · have hsucc := byte_toNat_add_one hcnt
    refine ⟨Memory.write s.enc.txbuf s.enc.txCnt.toNat (clamp v.toInt), exec_encPush_of_ready v hidle hcnt, hsucc,
      Memory.read?_write_same _ _ _, fun a ha => Memory.read?_write_other _ _ ha, ?_⟩
    rw [← hsucc]
    exact State.encPushReady_of_idle hidle
  · rintro ⟨hidle, hcnt⟩
    exact hnot.elim (fun hst => hst hidle) (fun hfull => Nat.ne_of_lt hcnt hfull)

/-- Settles O11: the guard is `enc_state == Idle` alone, and `EmitStart` is an emitting state. -/
theorem encoderStartBeginsAFrame : Obligations.EncoderStartBeginsAFrame := by
  refine fun s => ⟨exec_encStart_of_idle, fun t hidle ht => ?_, exec_encStart_of_not_idle⟩
  rw [exec_encStart_of_idle hidle] at ht
  cases ht
  exact State.encFlags_of_not_idle (by simp)

/-- Settles O12: one emission for each of the three states; the last leaves an idle encoder with nothing loaded. -/
theorem encoderEmitsMarkersAndChecksum : Obligations.EncoderEmitsMarkersAndChecksum := by
  refine fun s => ⟨exec_encEmitStart, exec_encEmitChk, fun hend => ⟨exec_encEmitEnd hend, fun t ht => ?_⟩⟩
  rw [exec_encEmitEnd hend] at ht
  cases ht
  obtain ⟨hbusy, hready, hvalid⟩ :=
    State.encFlags_of_idle_of_txCnt_eq_zero (s := (s.linkWrite Config.endMarker).withEnc s.enc.afterEnd) rfl rfl
  exact ⟨hbusy, hvalid, hready⟩

/-- Settles O13: the test for an empty payload is the same over bytes and over numbers. -/
theorem encoderEmitsTheLength : Obligations.EncoderEmitsTheLength := by
  intro s hlen
  have hzero : s.enc.txCnt = 0x00#8 ↔ s.enc.txCnt.toNat = 0 := BitVec.toNat_eq
  simp only [← hzero]
  exact exec_encEmitLen hlen

/-- Settles O14: the index does not wrap, so the test for the last byte is the same over bytes and over numbers. -/
theorem encoderEmitsThePayloadByte : Obligations.EncoderEmitsThePayloadByte := by
  intro s b hpayload hidx hb
  have hlast : s.enc.txIdx + 1#8 = s.enc.txCnt ↔ s.enc.txIdx.toNat + 1 = s.enc.txCnt.toNat := by
    rw [BitVec.toNat_eq, byte_toNat_add_one hidx]
  simp only [← hlast]
  exact exec_encEmitData hpayload hidx hb

end Sys2Proof.Machine
end

section
/-! PROOFS. What one move does to the encoder and the TX stream: a move of another unit nothing, a command what its operation
does, a transfer the emission the encoder's state selects. -/

namespace Sys2Proof.Machine

/-! Moves that select no operation of the encoder (R98, R254). -/

theorem unitOf_of_decodeRx {d : DecState} {b : Byte} {i : Instr} (h : decodeRx d b = .op i) : unitOf i = .dec := by
  cases d with
  | idle | done => cases h
  | readPayload | readChecksum => cases h; rfl
  | seekStart | readLength | readEnd =>
    rw [decodeRx] at h
    split at h <;> (cases h; rfl)

theorem unitOf_of_decodeTimeout {d : DecState} {i : Instr} (h : decodeTimeout d = .op i) : unitOf i = .dec := by
  cases d with
  | idle | done => cases h
  | seekStart | readLength | readPayload | readChecksum | readEnd => cases h; rfl

/-- A move that is no command to the encoder, no transfer on `tx` and no reset selects an operation of CRC0 or DEC. -/
theorem unitOf_of_other_move {s : State} {m : Move} {ev : Event} {i : Instr} (hcmd : isEncCommand m = false)
    (htx : m ≠ .linkTx) (hreset : m ≠ .reset) (hev : s.presented m = some ev)
    (hi : decode ⟨s.enc.state, s.dec.state, ev⟩ = .op i) : unitOf i = .crc0 ∨ unitOf i = .dec := by
  cases m with
  | host c =>
    cases hev
    cases hi
    cases c with
    | encClear | encPush v | encStart => cases hcmd
    | crcClr | crcByte b | crcRead => exact .inl rfl
    | decStart | decSetTmo t | decResult | decRdbuf n => exact .inr rfl
  | linkTx => exact absurd rfl htx
  | linkRx =>
    simp only [State.presented] at hev
    split at hev <;> cases hev
    · exact .inr (unitOf_of_decodeRx hi)
    · exact .inr (unitOf_of_decodeTimeout hi)
  | ticker => cases hev; cases hi; exact .inr rfl
  | reset => exact absurd rfl hreset

/-- An operation that changes the encoder is the encoder's or the reset. -/
theorem EncChange.unitOf {i : Instr} {e e' : Enc} {out : List Byte} (h : EncChange i e e' out) :
    unitOf i = .enc ∨ unitOf i = .all := by
  cases h with
  | reset => exact .inr rfl
  | clear | push | start | emitStart | emitLen | emitData | emitChk | emitEnd => exact .inl rfl

/-- An operation of CRC0 or DEC leaves the encoder and the TX stream alone. -/
theorem exec_enc_of_other_unit {i : Instr} {s t : State} (hu : unitOf i = .crc0 ∨ unitOf i = .dec)
    (h : exec i s = .next t) : t.enc = s.enc ∧ t.txStream = s.txStream := by
  rcases exec_enc_cases h with hsame | ⟨out, hchange, -⟩
  · exact hsame
  · rcases hu with hu | hu <;> rcases hchange.unitOf with hu' | hu' <;> cases hu.symm.trans hu'

/-! One step, by its move. -/

/-- A step spends its move. -/
theorem step_moves {s t : State} {m : Move} {ms : List Move} (hm : s.moves = m :: ms) (h : step s = .next t) :
    t.moves = ms := by
  have htail : s.moves.tail = ms := by rw [hm, List.tail_cons]
  rcases step_cases h with ⟨hnil, -⟩ | ⟨_, _, -, rfl⟩ | ⟨_, _, _, _, -, -, -, hx⟩
  · cases hm.symm.trans hnil
  · exact htail
  · rw [exec_moves hx, State.takeMove_moves, htail]

theorem step_enc_of_other_move {s t : State} {m : Move} {ms : List Move} (hm : s.moves = m :: ms)
    (hcmd : isEncCommand m = false) (htx : m ≠ .linkTx) (hreset : m ≠ .reset) (h : step s = .next t) :
    t.enc = s.enc ∧ t.txStream = s.txStream := by
  rcases step_cases h with ⟨_, rfl⟩ | ⟨_, _, _, rfl⟩ | ⟨m', _, ev, i, hm', hev, hi, hx⟩
  · exact ⟨rfl, rfl⟩
  · exact ⟨rfl, rfl⟩
  · cases hm.symm.trans hm'
    have hsame := exec_enc_of_other_unit (unitOf_of_other_move hcmd htx hreset hev hi) hx
    simpa using hsame

theorem step_host {s : State} {c : HostCmd} {ms : List Move} (hm : s.moves = .host c :: ms) :
    step s = exec (decodeHost c) s.spendMove :=
  step_of_op hm rfl rfl

theorem step_linkTx {s : State} {i : Instr} {st : EncState} {ms : List Move} (hm : s.moves = .linkTx :: ms)
    (hst : s.enc.state = st) (hi : decodeTx st = .op i) : step s = exec i s.spendMove :=
  step_of_op hm rfl ((congrArg decodeTx hst).trans hi)

/-- R222: an idle encoder offers no byte, and LINK_TX takes none. -/
theorem step_linkTx_of_idle {s : State} {ms : List Move} (hm : s.moves = .linkTx :: ms) (hidle : s.enc.state = .idle) :
    step s = .next s.spendMove := by
  simp only [step, hm, State.presented, decode, hidle, decodeTx]

theorem encCommand_cases {m : Move} (h : isEncCommand m = true) :
    m = .host .encClear ∨ (∃ v, m = .host (.encPush v)) ∨ m = .host .encStart := by
  cases m with
  | host c =>
    cases c with
    | encClear => exact .inl rfl
    | encPush v => exact .inr (.inl ⟨v, rfl⟩)
    | encStart => exact .inr (.inr rfl)
    | crcClr | crcByte b | crcRead | decStart | decSetTmo t | decResult | decRdbuf n => cases h
  | linkTx | linkRx | ticker | reset => cases h

/-- R152: a command to a busy encoder changes nothing. -/
theorem step_encCommand_of_not_idle {s : State} {m : Move} {ms : List Move} (hm : s.moves = m :: ms)
    (hcmd : isEncCommand m = true) (hbusy : s.enc.state ≠ .idle) : step s = .next s.spendMove := by
  obtain rfl | ⟨v, rfl⟩ | rfl := encCommand_cases hcmd <;> rw [step_host hm]
  · exact exec_encClear_of_not_idle (s := s.spendMove) hbusy
  · exact exec_encPush_of_not_ready (s := s.spendMove) v fun hready => hbusy hready.1
  · exact exec_encStart_of_not_idle (s := s.spendMove) hbusy

/-- A busy encoder is changed by transfers and resets only. -/
theorem step_enc_of_not_idle {s t : State} {m : Move} {ms : List Move} (hm : s.moves = m :: ms)
    (hbusy : s.enc.state ≠ .idle) (htx : m ≠ .linkTx) (hreset : m ≠ .reset) (h : step s = .next t) :
    t.enc = s.enc ∧ t.txStream = s.txStream := by
  cases hcmd : isEncCommand m with
  | false => exact step_enc_of_other_move hm hcmd htx hreset h
  | true =>
    rw [step_encCommand_of_not_idle hm hcmd hbusy] at h
    cases h
    exact ⟨rfl, rfl⟩

/-- What an idle encoder makes of a move that is no reset: a command takes effect, a push as long as there is room
(R141, R143, R145), and nothing else does. -/
def Enc.command (e : Enc) : Move → Enc
  | .host .encClear => e.clear
  | .host (.encPush v) => if e.txCnt.toNat < 255 then e.push (clamp (sext v)) else e
  | .host .encStart => e.start
  | _ => e

theorem Enc.command_of_not_encCommand (e : Enc) {m : Move} (h : isEncCommand m = false) : e.command m = e := by
  cases m with
  | host c =>
    cases c with
    | encClear | encPush v | encStart => cases h
    | crcClr | crcByte b | crcRead | decStart | decSetTmo t | decResult | decRdbuf n => rfl
  | linkTx | linkRx | ticker | reset => rfl

theorem Enc.command_push_of_lt {e : Enc} (v : PushValue) (h : e.txCnt.toNat < 255) :
    e.command (.host (.encPush v)) = e.push (clamp (sext v)) := if_pos h

theorem Enc.command_push_of_not_lt {e : Enc} (v : PushValue) (h : ¬ e.txCnt.toNat < 255) :
    e.command (.host (.encPush v)) = e := if_neg h

/-- Only `ENC.START` takes the encoder out of `Idle`. -/
theorem Enc.command_state (e : Enc) {m : Move} (h : m ≠ .host .encStart) : (e.command m).state = e.state := by
  cases hcmd : isEncCommand m with
  | false => rw [Enc.command_of_not_encCommand e hcmd]
  | true =>
    obtain rfl | ⟨v, rfl⟩ | rfl := encCommand_cases hcmd
    · rfl
    · by_cases hroom : e.txCnt.toNat < 255
      · rw [Enc.command_push_of_lt v hroom, Enc.push_state]
      · rw [Enc.command_push_of_not_lt v hroom]
    · exact absurd rfl h

/-- A step of an idle encoder, whatever the move. -/
theorem step_enc_of_idle {s t : State} {m : Move} {ms : List Move} (hm : s.moves = m :: ms)
    (hidle : s.enc.state = .idle) (hreset : m ≠ .reset) (h : step s = .next t) :
    t.enc = s.enc.command m ∧ t.txStream = s.txStream := by
  by_cases htx : m = .linkTx
  · subst htx
    rw [step_linkTx_of_idle hm hidle] at h
    cases h
    exact ⟨rfl, rfl⟩
  · cases hcmd : isEncCommand m with
    | false =>
      rw [Enc.command_of_not_encCommand s.enc hcmd]
      exact step_enc_of_other_move hm hcmd htx hreset h
    | true =>
      obtain rfl | ⟨v, rfl⟩ | rfl := encCommand_cases hcmd <;> rw [step_host hm] at h
      · cases (exec_encClear_of_idle (s := s.spendMove) hidle).symm.trans h
        exact ⟨rfl, rfl⟩
      · by_cases hroom : s.enc.txCnt.toNat < 255
        · cases (exec_encPush_of_ready (s := s.spendMove) v hidle hroom).symm.trans h
          exact ⟨(Enc.command_push_of_lt v hroom).symm, rfl⟩
        · cases (exec_encPush_of_not_ready (s := s.spendMove) v fun hready => hroom hready.2).symm.trans h
          exact ⟨(Enc.command_push_of_not_lt v hroom).symm, rfl⟩
      · cases (exec_encStart_of_idle (s := s.spendMove) hidle).symm.trans h
        exact ⟨rfl, rfl⟩

end Sys2Proof.Machine
end

section
/-! PROOFS. The encoder computes the frame (R151): what an encoder holds, the bytes it has still to send, and the runs that
load it, drain it and leave it alone. -/

namespace Sys2Proof.Machine

/-! Loading. -/

/-- The values loaded into the encoder are the bytes `bs`. -/
def Enc.Holds (bs : List Byte) (e : Enc) : Prop :=
  e.txCnt.toNat = bs.length ∧ ∀ i < bs.length, Memory.read? e.txbuf i = bs[i]?

theorem Enc.holds_clear (e : Enc) : e.clear.Holds [] :=
  ⟨rfl, fun _ hi => absurd hi (Nat.not_lt_zero _)⟩

theorem Enc.holds_push {bs : List Byte} {e : Enc} (h : e.Holds bs) (hroom : bs.length < 255) (b : Byte) :
    (e.push b).Holds (bs ++ [b]) := by
  obtain ⟨hcnt, hcells⟩ := h
  rw [← hcnt] at hroom
  refine ⟨by simp [byte_toNat_add_one hroom, hcnt], fun i hi => ?_⟩
  rw [Enc.push_txbuf, hcnt]
  obtain hlt | rfl : i < bs.length ∨ i = bs.length := by
    rw [List.length_append, List.length_singleton] at hi
    omega
  · rw [Memory.read?_write_other _ _ (Nat.ne_of_lt hlt), hcells i hlt, List.getElem?_append_left hlt]
  · rw [Memory.read?_write_same, List.getElem?_concat_length]

theorem Enc.holds_start {bs : List Byte} {e : Enc} (h : e.Holds bs) : e.start.Holds bs := h

/-- Pushes extend what the encoder holds, as long as there is room for them all. -/
theorem Enc.holds_pushes {bs : List Byte} {e : Enc} (h : e.Holds bs) (vs : List PushValue)
    (hroom : bs.length + vs.length ≤ 255) :
    ((vs.map fun v => Move.host (.encPush v)).foldl Enc.command e).Holds (bs ++ vs.map fun v => clamp (sext v)) := by
  induction vs generalizing bs e with
  | nil => simpa using h
  | cons v vs ih =>
    rw [List.length_cons] at hroom
    have hlt : bs.length < 255 := by omega
    have hpush := Enc.command_push_of_lt (e := e) v (h.1 ▸ hlt)
    have hrest := ih (Enc.holds_push h hlt (clamp (sext v))) (by simp; omega)
    rw [List.append_assoc] at hrest
    rw [List.map_cons, List.map_cons, List.foldl_cons, hpush]
    exact hrest

/-- `ENC.CLEAR` and the pushes: the encoder holds the clamped values, whatever it held before (R141, R143). -/
theorem Enc.holds_clear_pushes (e : Enc) {vs : List PushValue} (hlen : vs.length ≤ 255) :
    ((Move.host .encClear :: vs.map fun v => Move.host (.encPush v)).foldl Enc.command e).Holds
      (vs.map fun v => clamp (sext v)) :=
  Enc.holds_pushes e.holds_clear vs (by simpa using hlen)

/-! What is still to send. -/

/-- The bytes `r`, then the checksum `a` continued over them, then the end marker: the end of a frame (R90, R94). -/
def frameTail (a : Byte) (r : List Byte) : List Byte := r ++ [crcFrom a r, Config.endMarker]

/-- The encoder, sending the frame of `bs`, has exactly these bytes still to send. -/
inductive Enc.Sends (bs : List Byte) (e : Enc) : List Byte → Prop where
  | startMarker (hst : e.state = .emitStart) (hheld : e.Holds bs) (hidx : e.txIdx = 0x00#8) :
      e.Sends bs (Config.startMarker :: e.txCnt :: frameTail (crcByte Config.crcInit e.txCnt) bs)
  | length (hst : e.state = .emitLen) (hheld : e.Holds bs) (hidx : e.txIdx = 0x00#8) :
      e.Sends bs (e.txCnt :: frameTail (crcByte Config.crcInit e.txCnt) bs)
  | payload {b : Byte} {r : List Byte} (hst : e.state = .emitPayload) (hheld : e.Holds bs)
      (hrest : bs.drop e.txIdx.toNat = b :: r) : e.Sends bs (b :: frameTail (crcByte e.crc b) r)
  | checksum (hst : e.state = .emitChecksum) : e.Sends bs [e.crc, Config.endMarker]
  | endMarker (hst : e.state = .emitEnd) : e.Sends bs [Config.endMarker]
  | nothing (hst : e.state = .idle) (hcnt : e.txCnt = 0x00#8) : e.Sends bs []

/-- After `ENC.START` the whole frame is still to send. -/
theorem Enc.sends_frame {bs : List Byte} {e : Enc} (h : e.Holds bs) : e.start.Sends bs (frame bs) := by
  have hcnt : e.txCnt = BitVec.ofNat 8 bs.length := by rw [← h.1, BitVec.ofNat_toNat, BitVec.setWidth_eq]
  have hframe : frame bs = Config.startMarker :: e.txCnt :: frameTail (crcByte Config.crcInit e.txCnt) bs := by
    rw [hcnt]; rfl
  rw [hframe]
  exact .startMarker rfl h rfl

/-- Past the length byte, an encoder whose sequencer tells by the index whether the payload is at its end. -/
theorem Enc.sends_frameTail {bs : List Byte} {e : Enc} (h : e.Holds bs) (hidx : e.txIdx.toNat ≤ bs.length)
    (hst : e.state = if e.txIdx = e.txCnt then .emitChecksum else .emitPayload) :
    e.Sends bs (frameTail e.crc (bs.drop e.txIdx.toNat)) := by
  simp only [BitVec.toNat_eq, h.1] at hst
  cases hdrop : bs.drop e.txIdx.toNat with
  | nil =>
    have hall : e.txIdx.toNat = bs.length := Nat.le_antisymm hidx (List.drop_eq_nil_iff.mp hdrop)
    exact .checksum (hst.trans (if_pos hall))
  | cons b r =>
    have hmore : e.txIdx.toNat ≠ bs.length := fun hall => by
      rw [hall, List.drop_length] at hdrop
      cases hdrop
    exact .payload (hst.trans (if_neg hmore)) h hdrop

theorem Enc.not_idle_of_sends_cons {bs out : List Byte} {e : Enc} {b : Byte} (h : e.Sends bs (b :: out)) :
    e.state ≠ .idle := by
  cases h with
  | startMarker hst | length hst | payload hst | checksum hst | endMarker hst => simp [hst]

theorem Enc.idle_of_sends_nil {bs : List Byte} {e : Enc} (h : e.Sends bs []) : e.state = .idle ∧ e.txCnt = 0x00#8 := by
  cases h with
  | nothing hst hcnt => exact ⟨hst, hcnt⟩

/-- A payload byte still to send lies below 255 in the buffer, and the encoder's index is its place. -/
theorem Enc.read?_of_drop_eq_cons {bs r : List Byte} {e : Enc} {b : Byte} (h : e.Holds bs)
    (hrest : bs.drop e.txIdx.toNat = b :: r) :
    e.txIdx.toNat < bs.length ∧ e.txIdx.toNat < 255 ∧ Memory.read? e.txbuf e.txIdx.toNat = some b := by
  obtain ⟨hcnt, hcells⟩ := h
  have hlt : e.txIdx.toNat < bs.length := by
    by_contra hge
    rw [List.drop_eq_nil_of_le (Nat.le_of_not_lt hge)] at hrest
    cases hrest
  have hb : bs[e.txIdx.toNat]? = some b := by
    rw [← List.head?_drop, hrest, List.head?_cons]
  exact ⟨hlt, by omega, (hcells _ hlt).trans hb⟩

/-- A transfer sends the first of the bytes still to send (R146 to R150). -/
theorem step_linkTx_of_sends {bs out : List Byte} {s : State} {b : Byte} {ms : List Move}
    (hm : s.moves = .linkTx :: ms) (h : s.enc.Sends bs (b :: out)) :
    ∃ e', step s = .next ((s.spendMove.linkWrite b).withEnc e') ∧ e'.Sends bs out := by
  cases h with
  | startMarker hst hheld hidx =>
    refine ⟨s.enc.afterStart, ?_, .length rfl hheld hidx⟩
    rw [step_linkTx hm hst rfl]
    exact exec_encEmitStart (s := s.spendMove) hst
  | length hst hheld hidx =>
    have hempty : s.enc.txCnt = 0x00#8 ↔ s.enc.txIdx = s.enc.txCnt := by rw [hidx, eq_comm]
    refine ⟨s.enc.afterLen, ?_, ?_⟩
    · rw [step_linkTx hm hst rfl]
      exact exec_encEmitLen (s := s.spendMove) hst
    · have htail := Enc.sends_frameTail (e := s.enc.afterLen) hheld (by simp [hidx])
        (if_congr hempty rfl rfl)
      simpa [hidx] using htail
  | payload hst hheld hrest =>
    obtain ⟨hlt, hdepth, hcell⟩ := Enc.read?_of_drop_eq_cons hheld hrest
    have hsucc := byte_toNat_add_one hdepth
    refine ⟨s.enc.afterData b, ?_, ?_⟩
    · rw [step_linkTx hm hst rfl]
      exact exec_encEmitData (s := s.spendMove) hst hdepth hcell
    · have htail := Enc.sends_frameTail (e := s.enc.afterData b) hheld (by simpa [hsucc] using hlt) rfl
      rw [Enc.afterData_txIdx, hsucc, ← List.drop_drop, hrest] at htail
      exact htail
  | checksum hst =>
    refine ⟨s.enc.afterChk, ?_, .endMarker rfl⟩
    rw [step_linkTx hm hst rfl]
    exact exec_encEmitChk (s := s.spendMove) hst
  | endMarker hst =>
    refine ⟨s.enc.afterEnd, ?_, .nothing rfl rfl⟩
    rw [step_linkTx hm hst rfl]
    exact exec_encEmitEnd (s := s.spendMove) hst

/-! Runs. -/

/-- A run that goes through goes through at every point of it. -/
theorem run_add_inv {m n : Nat} {s t : State} (h : run (m + n) s = .next t) :
    ∃ u, run m s = .next u ∧ run n u = .next t := by
  induction m generalizing s with
  | zero => exact ⟨s, rfl, by rwa [Nat.zero_add] at h⟩
  | succ m ih =>
    rw [Nat.add_right_comm] at h
    obtain ⟨u, hstep, hrun⟩ := run_succ_inv h
    obtain ⟨v, hm, hn⟩ := ih hrun
    exact ⟨v, (run_succ hstep).trans hm, hn⟩

/-- An idle encoder is changed by its commands alone, and sends nothing while it is not started. -/
theorem run_of_idle {l rest : List Move} {s t : State} (hmoves : s.moves = l ++ rest) (hidle : s.enc.state = .idle)
    (hreset : .reset ∉ l) (hstart : .host .encStart ∉ l) (hrun : run l.length s = .next t) :
    t.enc = (l.filter isEncCommand).foldl Enc.command s.enc ∧ t.enc.state = .idle ∧ t.txStream = s.txStream ∧
      t.moves = rest := by
  induction l generalizing s with
  | nil => cases hrun; exact ⟨rfl, hidle, rfl, hmoves⟩
  | cons m l ih =>
    rw [List.mem_cons, not_or] at hreset hstart
    obtain ⟨u, hstep, hrun⟩ := run_succ_inv hrun
    obtain ⟨henc, htx⟩ := step_enc_of_idle hmoves hidle (Ne.symm hreset.1) hstep
    have hstate : u.enc.state = .idle := by rw [henc, Enc.command_state _ (Ne.symm hstart.1), hidle]
    obtain ⟨hfold, hidle', htx', hrest⟩ := ih (step_moves hmoves hstep) hstate hreset.2 hstart.2 hrun
    refine ⟨?_, hidle', htx'.trans htx, hrest⟩
    rw [hfold, henc]
    cases hcmd : isEncCommand m with
    | true => rw [List.filter_cons_of_pos hcmd, List.foldl_cons]
    | false => rw [List.filter_cons_of_neg (by simp [hcmd]), Enc.command_of_not_encCommand _ hcmd]

/-- While bytes are left to send, each transfer sends the next of them and no other move matters (R151). -/
theorem run_of_sends {bs out : List Byte} {l rest : List Move} {s t : State} (hmoves : s.moves = l ++ rest)
    (hsends : s.enc.Sends bs out) (hreset : .reset ∉ l) (hmore : l.count .linkTx < out.length)
    (hrun : run l.length s = .next t) :
    t.enc.Sends bs (out.drop (l.count .linkTx)) ∧ t.txStream = s.txStream ++ out.take (l.count .linkTx) ∧
      t.moves = rest := by
  induction l generalizing s out with
  | nil => cases hrun; exact ⟨hsends, (List.append_nil _).symm, hmoves⟩
  | cons m l ih =>
    rw [List.mem_cons, not_or] at hreset
    obtain ⟨u, hstep, hrun⟩ := run_succ_inv hrun
    have hleft := step_moves hmoves hstep
    cases out with
    | nil => exact absurd hmore (Nat.not_lt_zero _)
    | cons b out =>
      by_cases htx : m = .linkTx
      · subst htx
        rw [List.count_cons_self, List.length_cons] at hmore
        obtain ⟨e', hstep', hsends'⟩ := step_linkTx_of_sends hmoves hsends
        cases hstep'.symm.trans hstep
        obtain ⟨hdrop, htake, hrest⟩ := ih hleft hsends' hreset.2 (Nat.lt_of_succ_lt_succ hmore) hrun
        rw [List.count_cons_self, List.drop_succ_cons, List.take_succ_cons]
        exact ⟨hdrop, by simp [htake], hrest⟩
      · rw [List.count_cons_of_ne htx] at hmore ⊢
        obtain ⟨henc, hstream⟩ :=
          step_enc_of_not_idle hmoves (Enc.not_idle_of_sends_cons hsends) htx (Ne.symm hreset.1) hstep
        rw [← hstream]
        exact ih hleft (henc ▸ hsends) hreset.2 hmore hrun

/-- The loading: the encoder ends up idle, holding the clamped values. -/
theorem run_of_load {vs : List PushValue} {l rest : List Move} {s t : State} (hlen : vs.length ≤ 255)
    (hmoves : s.moves = l ++ rest) (hidle : s.enc.state = .idle) (hreset : .reset ∉ l)
    (hload : l.filter isEncCommand = .host .encClear :: vs.map (fun v => .host (.encPush v)))
    (hrun : run l.length s = .next t) :
    t.enc.Holds (vs.map fun v => clamp (sext v)) ∧ t.enc.state = .idle ∧ t.txStream = s.txStream ∧ t.moves = rest := by
  have hstart : .host .encStart ∉ l := fun hmem => by
    have hcmd : .host .encStart ∈ l.filter isEncCommand := List.mem_filter.mpr ⟨hmem, rfl⟩
    rw [hload] at hcmd
    simp at hcmd
  obtain ⟨henc, hrest⟩ := run_of_idle hmoves hidle hreset hstart hrun
  rw [hload] at henc
  exact ⟨henc ▸ Enc.holds_clear_pushes s.enc hlen, hrest⟩

/-- `ENC.START`, then moves with the transfers of every byte of the frame but the last, then the last transfer. -/
theorem run_of_emit {bs : List Byte} {l rest : List Move} {s t : State}
    (hmoves : s.moves = .host .encStart :: (l ++ .linkTx :: rest)) (hidle : s.enc.state = .idle)
    (hheld : s.enc.Holds bs) (hreset : .reset ∉ l) (hcount : l.count .linkTx + 1 = (frame bs).length)
    (hrun : run (l.length + 1 + 1) s = .next t) :
    t.enc.state = .idle ∧ t.enc.txCnt = 0x00#8 ∧ t.txStream = s.txStream ++ frame bs ∧ t.moves = rest := by
  obtain ⟨u, hstep, hrun⟩ := run_succ_inv hrun
  obtain ⟨(hstarted : u.enc = s.enc.start), htx⟩ := step_enc_of_idle hmoves hidle (by decide) hstep
  obtain ⟨v, hrun, hlast⟩ := run_add_inv hrun
  obtain ⟨hsends, htx', hmoves'⟩ := run_of_sends (step_moves hmoves hstep) (hstarted ▸ Enc.sends_frame hheld) hreset
    (Nat.lt_of_succ_le hcount.le) hrun
  obtain ⟨b, hb⟩ : ∃ b, (frame bs).drop (l.count .linkTx) = [b] := by
    rw [← List.length_eq_one_iff, List.length_drop, ← hcount, Nat.add_sub_cancel_left]
  rw [hb] at hsends
  obtain ⟨w, hstep', hend⟩ := run_succ_inv hlast
  cases hend
  obtain ⟨e', hstep'', hsent⟩ := step_linkTx_of_sends hmoves' hsends
  have hrest := step_moves hmoves' hstep'
  cases hstep''.symm.trans hstep'
  obtain ⟨hst, hcnt⟩ := Enc.idle_of_sends_nil hsent
  refine ⟨hst, hcnt, ?_, hrest⟩
  calc v.txStream ++ [b]
    _ = s.txStream ++ ((frame bs).take (l.count .linkTx) ++ (frame bs).drop (l.count .linkTx)) := by
      rw [htx', htx, hb, List.append_assoc]
    _ = s.txStream ++ frame bs := by rw [List.take_append_drop]

/-! The statement. -/

theorem frame_length (bs : List Byte) : (frame bs).length = bs.length + 4 := by
  simp [frame]

theorem encodeFrame_map_sext {vs : List PushValue} (h : vs.length ≤ 255) :
    encodeFrame (vs.map sext) = some (frame (vs.map fun v => clamp (sext v))) := by
  rw [encodeFrame, if_pos (by simpa using h), List.map_map]
  rfl

/-- Settles O51, phase by phase: the loading, the frame from `ENC.START` to its last transfer, and what comes after it,
which finds an idle encoder and no command. -/
theorem encoderEmitsTheFrameWhateverElseHappens : Obligations.EncoderEmitsTheFrameWhateverElseHappens := by
  intro s t vs load emit post rest hlen hidle hmoves hreset hload hemit hpost hrun
  simp only [List.mem_append, not_or] at hreset
  obtain ⟨⟨hresetLoad, hresetEmit⟩, hresetPost⟩ := hreset
  have hsteps : load.length + emit.length + post.length + 2 =
      load.length + (emit.length + 1 + 1 + post.length) := by omega
  rw [hsteps] at hrun
  obtain ⟨u, hrunLoad, hrun⟩ := run_add_inv hrun
  obtain ⟨v, hrunEmit, hrunPost⟩ := run_add_inv hrun
  obtain ⟨hheld, hidleLoad, htxLoad, hmovesLoad⟩ := run_of_load hlen hmoves hidle hresetLoad hload hrunLoad
  obtain ⟨hidleEmit, hcntEmit, htxEmit, hmovesEmit⟩ := run_of_emit hmovesLoad hidleLoad hheld hresetEmit
    (by rw [hemit, frame_length, List.length_map]) hrunEmit
  have hstart : .host .encStart ∉ post := fun hmem => List.filter_eq_nil_iff.mp hpost _ hmem rfl
  obtain ⟨hencPost, hidlePost, htxPost, hmovesPost⟩ :=
    run_of_idle hmovesEmit hidleEmit hresetPost hstart hrunPost
  rw [hpost, List.foldl_nil] at hencPost
  have hstream : t.txStream = s.txStream ++ frame (vs.map fun v => clamp (sext v)) := by
    rw [htxPost, htxEmit, htxLoad]
  refine ⟨?_, hstream, hidlePost, hencPost ▸ hcntEmit, hmovesPost⟩
  rw [encodeFrame_map_sext hlen, hstream, List.drop_left]

end Sys2Proof.Machine
end

section
/-! PROOFS. The decoder's operations (R171 to R184, R188), one rule for each under its guard, the five answers to a
TimeoutSignal as one; then the statements about one operation. -/

namespace Sys2Proof.Machine

/-! The guarded update. -/

theorem onDec_of_guard {c : Bool} (h : c = true) (d : Dec) (s : State) : onDec c d s = .next (s.withDec d) := by
  rw [h, onDec_true]

theorem onDec_of_not_guard {c : Bool} (h : c = false) (d : Dec) (s : State) : onDec c d s = .next s := by
  rw [h, onDec_false]

/-! The guards and the flags. -/

theorem Dec.busy_iff_ne (d : Dec) : d.busy = true ↔ d.state ≠ .idle ∧ d.state ≠ .done := by
  rw [← Bool.not_eq_false, d.busy_eq_false_iff, not_or]

/-- R38: in a reading state the decoder is busy, takes bytes and shows no outcome. -/
theorem State.decFlags_of_busy {s : State} (h : s.dec.busy = true) :
    s.decBusy = true ∧ s.rxReady = true ∧ s.decDone = false :=
  ⟨h, h, decide_eq_false (s.dec.busy_iff_ne.mp h).2⟩

/-- R38: in `Done` the decoder is not busy and shows its outcome. -/
theorem State.decFlags_of_done {s : State} (h : s.dec.state = .done) : s.decBusy = false ∧ s.decDone = true :=
  ⟨s.dec.busy_eq_false_iff.mpr (.inr h), decide_eq_true h⟩

/-! The host's commands. -/

theorem exec_decStart_of_not_busy {s : State} (h : s.dec.busy = false) :
    exec .decStart s = .next (s.withDec s.dec.startAttempt) :=
  onDec_of_guard (congrArg not h) _ s

theorem exec_decStart_of_busy {s : State} (h : s.dec.busy = true) : exec .decStart s = .next s :=
  onDec_of_not_guard (congrArg not h) _ s

theorem exec_decSetTmo_of_not_busy {s : State} (t : Ticks) (h : s.dec.busy = false) :
    exec (.decSetTmo t) s = .next (s.withDec (s.dec.setTimeout t)) :=
  onDec_of_guard (congrArg not h) _ s

theorem exec_decSetTmo_of_busy {s : State} (t : Ticks) (h : s.dec.busy = true) : exec (.decSetTmo t) s = .next s :=
  onDec_of_not_guard (congrArg not h) _ s

/-! The reads that end in a byte. -/

theorem exec_decSeekHit {s : State} (h : s.dec.state = .seekStart) :
    exec .decSeekHit s = .next (s.withDec s.dec.seekHit) :=
  onDec_of_guard (decide_eq_true h) _ s

theorem exec_decSeekSkip {s : State} {b : Byte} (h : s.dec.state = .seekStart) (hb : b ≠ Config.startMarker) :
    exec (.decSeekSkip b) s = .next (s.withDec s.dec.reload) :=
  onDec_of_guard (decide_eq_true ⟨h, hb⟩) _ s

theorem exec_decLenOk {s : State} {b : Byte} (h : s.dec.state = .readLength) (hb : lengthLegal b = true) :
    exec (.decLenOk b) s = .next (s.withDec (s.dec.takeLength b)) :=
  onDec_of_guard (by simp only [h, hb, decide_true, Bool.and_self]) _ s

theorem exec_decLenBad {s : State} {b : Byte} (h : s.dec.state = .readLength) (hb : lengthLegal b = false) :
    exec (.decLenBad b) s = .next (s.withDec (s.dec.rejectLength b)) :=
  onDec_of_guard (by simp only [h, hb, decide_true, Bool.not_false, Bool.and_self]) _ s

theorem exec_decDataByte {s : State} (b : Byte) (h : s.dec.state = .readPayload) :
    exec (.decDataByte b) s = .next (s.withDec (s.dec.takeData b)) :=
  onDec_of_guard (decide_eq_true h) _ s

theorem exec_decChkByte {s : State} (b : Byte) (h : s.dec.state = .readChecksum) :
    exec (.decChkByte b) s = .next (s.withDec (s.dec.takeChecksum b)) :=
  onDec_of_guard (decide_eq_true h) _ s

theorem exec_decEndOk {s : State} (h : s.dec.state = .readEnd) :
    exec .decEndOk s = .next (s.withDec (s.dec.raise s.dec.verdict)) :=
  onDec_of_guard (decide_eq_true h) _ s

theorem exec_decEndBad {s : State} {b : Byte} (h : s.dec.state = .readEnd) (hb : b ≠ Config.endMarker) :
    exec (.decEndBad b) s = .next (s.withDec (s.dec.raise .desync)) :=
  onDec_of_guard (decide_eq_true ⟨h, hb⟩) _ s

/-! The reads that end in a TimeoutSignal. -/

/-- A TimeoutSignal selects an operation exactly in the reading states. -/
theorem Dec.busy_of_decodeTimeout {d : Dec} {i : Instr} (h : decodeTimeout d.state = .op i) : d.busy = true := by
  rw [d.busy_iff_ne]
  constructor <;> (intro hst; rw [hst] at h; cases h)

/-- The five `.TMO` operations are one: the one the state selects delivers the TimeoutSignal. -/
theorem exec_of_decodeTimeout {s : State} {i : Instr} (h : decodeTimeout s.dec.state = .op i) :
    exec i s = .next (s.withDec s.dec.timeoutSignal) := by
  rw [Dec.timeoutSignal_of_busy (Dec.busy_of_decodeTimeout h)]
  cases hst : s.dec.state with
  | idle | done => rw [hst] at h; cases h
  | seekStart | readLength | readPayload | readChecksum | readEnd =>
    rw [hst] at h
    cases h
    exact onDec_of_guard (decide_eq_true hst) _ s

theorem exec_timeout_of_state {s : State} {st : DecState} {i : Instr} (hst : s.dec.state = st)
    (hi : decodeTimeout st = .op i) :
    exec i s = .next (s.withDec (s.dec.raise (if st = .readEnd then .desync else .timeout))) := by
  subst hst
  rw [exec_of_decodeTimeout hi, Dec.timeoutSignal_of_busy (Dec.busy_of_decodeTimeout hi)]

/-! The verdict at the end marker. -/

theorem Dec.rangeViolated_iff (d : Dec) : d.rangeViolated = true ↔ ∃ b ∈ d.payload, 255 < b.toNat := by
  simp only [Dec.rangeViolated, List.any_eq_true, decide_eq_true_eq]

theorem Dec.verdict_of_crc_eq {d : Dec} (h : d.crc = d.rxChk) : d.verdict = .success := by
  rw [d.verdict_eq, if_pos h]

/-! The statements. -/

/-- Settles O15: the guard is a decoder that is not busy, and `SeekStart` is a reading state. -/
theorem decoderStartBeginsAnAttempt : Obligations.DecoderStartBeginsAnAttempt := by
  refine fun s => ⟨fun hst => ?_, fun hidle hdone => exec_decStart_of_busy (s.dec.busy_iff_ne.mpr ⟨hidle, hdone⟩)⟩
  have hstart := exec_decStart_of_not_busy (s.dec.busy_eq_false_iff.mpr hst)
  refine ⟨hstart, fun t ht => ?_⟩
  cases hstart.symm.trans ht
  exact State.decFlags_of_busy rfl

/-- Settles O16: one rule for the marker and one for every other byte. -/
theorem decoderSeeksTheStartMarker : Obligations.DecoderSeeksTheStartMarker :=
  fun _ hst => ⟨exec_decSeekHit hst, fun _ hb => exec_decSeekSkip hst hb⟩

/-- Settles O17: the guards are the legal lengths and the others, and `Done` is no reading state. -/
theorem decoderAcceptsOrRejectsTheLength : Obligations.DecoderAcceptsOrRejectsTheLength := by
  refine fun s b hst => ⟨fun hmin hmax => exec_decLenOk hst ((lengthLegal_iff b).mpr ⟨hmin, hmax⟩), fun hb => ?_⟩
  have hillegal : lengthLegal b = false := by
    rw [← Bool.not_eq_true, lengthLegal_iff]
    omega
  refine ⟨exec_decLenBad hst hillegal, fun t ht => ?_⟩
  cases (exec_decLenBad hst hillegal).symm.trans ht
  exact State.decFlags_of_done rfl

/-- Settles O18: the index is a cell of the buffer, so the new buffer is the write there, which the laws of the buffers
describe; the test for the last byte is the same over bytes and over numbers. -/
theorem decoderStoresThePayloadByte : Obligations.DecoderStoresThePayloadByte := by
  intro s b hst hcnt
  have hlast : s.dec.rxRem - 1#8 = 0x00#8 ↔ s.dec.rxRem.toNat = 1 := by
    bv_omega
  refine ⟨Memory.write s.dec.rxbuf s.dec.rxCnt.toNat b, ?_, byte_toNat_add_one (by omega),
    Memory.read?_write_same _ _ _, fun a ha => Memory.read?_write_other _ _ ha⟩
  simp only [← hlast, ← Memory.store_of_lt s.dec.rxbuf b hcnt]
  exact exec_decDataByte b hst

/-- Settles O19: the rule of the operation. -/
theorem decoderRetainsTheChecksum : Obligations.DecoderRetainsTheChecksum :=
  fun _ b hst => exec_decChkByte b hst

/-- Settles O20: the verdict, its range test said over the payload, and its two outcomes on bytes; either way the decoder
is in `Done`. -/
theorem decoderJudgesAtTheEndMarker : Obligations.DecoderJudgesAtTheEndMarker := by
  intro s hst
  have hok := exec_decEndOk hst
  refine ⟨?_, fun hcrc => ?_, fun b hb => exec_decEndBad hst hb, fun b t ht => ?_⟩
  · simp only [← Dec.rangeViolated_iff]
    exact hok
  · rw [hok, Dec.verdict_of_crc_eq hcrc]
    rfl
  · obtain ht | ⟨hb, ht⟩ := ht
    · cases hok.symm.trans ht
      exact State.decFlags_of_done rfl
    · cases (exec_decEndBad hst hb).symm.trans ht
      exact State.decFlags_of_done rfl

/-- Settles O21: the one rule of the TimeoutSignal in each of the five states, and `Done` is no reading state. -/
theorem timeoutSignalsEndTheAttempt : Obligations.TimeoutSignalsEndTheAttempt :=
  fun _ => ⟨fun hst => exec_timeout_of_state hst rfl, fun hst => exec_timeout_of_state hst rfl,
    fun hst => exec_timeout_of_state hst rfl, fun hst => exec_timeout_of_state hst rfl,
    fun hst => exec_timeout_of_state hst rfl, fun _ => State.decFlags_of_done rfl⟩

/-- Settles O23: the guard is a decoder that is not busy. -/
theorem setTimeoutOnlyBetweenAttempts : Obligations.SetTimeoutOnlyBetweenAttempts :=
  fun s t => ⟨fun hst => exec_decSetTmo_of_not_busy t (s.dec.busy_eq_false_iff.mpr hst),
    fun hidle hdone => exec_decSetTmo_of_busy t (s.dec.busy_iff_ne.mpr ⟨hidle, hdone⟩)⟩

end Sys2Proof.Machine
end

section
/-! PROOFS. The tick (R187): one tick in a reading state, the run of ticks up to the one that ends the read, and that one. -/

namespace Sys2Proof.Machine

/-! The timer. -/

/-- The decoder after `n` ticks that only count. -/
def Dec.countDown (n : Nat) (d : Dec) : Dec := { d with tmr := d.tmr - BitVec.ofNat 32 n }

theorem Dec.countDown_zero (d : Dec) : d.countDown 0 = d := by
  rw [Dec.countDown, show d.tmr - BitVec.ofNat 32 0 = d.tmr from BitVec.sub_zero _]

theorem Dec.countDown_succ (n : Nat) (d : Dec) : (d.countDown 1).countDown n = d.countDown (n + 1) := by
  have htmr : d.tmr - BitVec.ofNat 32 1 - BitVec.ofNat 32 n = d.tmr - BitVec.ofNat 32 (n + 1) := by
    rw [Nat.add_comm, BitVec.ofNat_add, sub_sub]
  simp only [Dec.countDown, htmr]

theorem Dec.countDown_tmr_toNat {n : Nat} {d : Dec} (h : n ≤ d.tmr.toNat) :
    (d.countDown n).tmr.toNat = d.tmr.toNat - n := by
  have hn : (BitVec.ofNat 32 n).toNat = n := Nat.mod_eq_of_lt (Nat.lt_of_le_of_lt h d.tmr.isLt)
  have hle : BitVec.ofNat 32 n ≤ d.tmr := by rwa [BitVec.le_def, hn]
  rw [Dec.countDown, BitVec.toNat_sub_of_le hle, hn]

/-! One tick. -/

theorem Dec.tick_of_two_le {d : Dec} (h : 2 ≤ d.tmr.toNat) : d.tick = d.countDown 1 :=
  if_neg fun hle => absurd ((ticks_le_one_iff d.tmr).mp hle) (Nat.not_le_of_lt h)

theorem Dec.tick_of_le_one {d : Dec} (h : d.tmr.toNat ≤ 1) : d.tick = d.timeoutSignal :=
  if_pos ((ticks_le_one_iff d.tmr).mpr h)

theorem exec_decTick_of_busy {s : State} (h : s.dec.busy = true) : exec .decTick s = .next (s.withDec s.dec.tick) :=
  onDec_of_guard h _ s

theorem exec_decTick_of_not_busy {s : State} (h : s.dec.busy = false) : exec .decTick s = .next s :=
  onDec_of_not_guard h _ s

/-- The tick that counts. -/
theorem exec_decTick_of_two_le {s : State} (hbusy : s.dec.busy = true) (h : 2 ≤ s.dec.tmr.toNat) :
    exec .decTick s = .next (s.withDec (s.dec.countDown 1)) := by
  rw [exec_decTick_of_busy hbusy, Dec.tick_of_two_le h]

/-- The tick that ends the read. -/
theorem exec_decTick_of_le_one {s : State} (hbusy : s.dec.busy = true) (h : s.dec.tmr.toNat ≤ 1) :
    exec .decTick s = .next (s.withDec (s.dec.raise (if s.dec.state = .readEnd then .desync else .timeout))) := by
  rw [exec_decTick_of_busy hbusy, Dec.tick_of_le_one h, Dec.timeoutSignal_of_busy hbusy]

/-- The tick that ends the read is the `.TMO` operation of the state. -/
theorem exec_decTick_eq_timeout {s : State} {st : DecState} {i : Instr} (h : s.dec.tmr.toNat ≤ 1)
    (hst : s.dec.state = st) (hi : decodeTimeout st = .op i) : exec .decTick s = exec i s := by
  subst hst
  rw [exec_decTick_of_busy (Dec.busy_of_decodeTimeout hi), Dec.tick_of_le_one h, exec_of_decodeTimeout hi]

/-! Runs of ticks. -/

theorem step_ticker {s : State} {ms : List Move} (hm : s.moves = .ticker :: ms) :
    step s = exec .decTick (s.withMoves ms) := by
  rw [step_of_op hm rfl rfl, State.takeMove, State.spendMove, hm, List.tail_cons]
  rfl

/-- Before the tick that ends the read, ticks only count. -/
theorem run_ticks {n : Nat} {rest : List Move} {s : State} (hbusy : s.dec.busy = true)
    (hn : n < max 1 s.dec.tmr.toNat) (hm : s.moves = List.replicate n .ticker ++ rest) :
    run n s = .next ((s.withMoves rest).withDec (s.dec.countDown n)) := by
  induction n generalizing s with
  | zero =>
    subst hm
    rw [Dec.countDown_zero]
    rfl
  | succ n ih =>
    have htwo : 2 ≤ s.dec.tmr.toNat := by omega
    have hrest : n < max 1 (s.dec.countDown 1).tmr.toNat := by
      rw [Dec.countDown_tmr_toNat (Nat.le_of_succ_le htwo)]
      omega
    have hstep : step s = .next ((s.withMoves (List.replicate n .ticker ++ rest)).withDec (s.dec.countDown 1)) :=
      (step_ticker hm).trans (exec_decTick_of_two_le hbusy htwo)
    rw [run_succ hstep, ← Dec.countDown_succ n]
    exact ih (s := (s.withMoves _).withDec (s.dec.countDown 1)) hbusy hrest rfl

/-- The last of the `N` ticks ends the read, `N` being the timer's value and 0 behaving as 1. -/
theorem run_ticks_timeout {rest : List Move} {s : State} (hbusy : s.dec.busy = true)
    (hm : s.moves = List.replicate (max 1 s.dec.tmr.toNat) .ticker ++ rest) :
    ∃ n, run (max 1 s.dec.tmr.toNat) s = .next ((s.withMoves rest).withDec
      ((s.dec.countDown n).raise (if s.dec.state = .readEnd then .desync else .timeout))) := by
  obtain ⟨n, hn⟩ : ∃ n, max 1 s.dec.tmr.toNat = n + 1 := ⟨s.dec.tmr.toNat - 1, by omega⟩
  have hlow : (s.dec.countDown n).tmr.toNat ≤ 1 := by
    rw [Dec.countDown_tmr_toNat (by omega)]
    omega
  rw [hn, List.replicate_succ', List.append_assoc] at hm
  have hlast : step ((s.withMoves (.ticker :: rest)).withDec (s.dec.countDown n)) = _ :=
    (step_ticker rfl).trans (exec_decTick_of_le_one hbusy hlow)
  rw [hn, run_add (run_ticks hbusy (by omega) hm)]
  exact ⟨n, run_succ hlast⟩

/-- Settles O22: the three things one tick can do, and the ticks up to and with the one that ends the read. -/
theorem tickCountsDownOrTimesOut : Obligations.TickCountsDownOrTimesOut := by
  refine fun s => ⟨fun hst => exec_decTick_of_not_busy (s.dec.busy_eq_false_iff.mpr hst), exec_decTick_of_two_le,
    exec_decTick_of_le_one, fun ht => ⟨fun hst => exec_decTick_eq_timeout ht hst rfl,
      fun hst => exec_decTick_eq_timeout ht hst rfl, fun hst => exec_decTick_eq_timeout ht hst rfl,
      fun hst => exec_decTick_eq_timeout ht hst rfl, fun hst => exec_decTick_eq_timeout ht hst rfl⟩,
    fun rest hbusy hm => ⟨fun n hn => ?_, ?_⟩⟩
  · have hsplit : max 1 s.dec.tmr.toNat = n + (max 1 s.dec.tmr.toNat - n) := by omega
    rw [hsplit, ← List.replicate_append_replicate, List.append_assoc] at hm
    exact ⟨_, run_ticks hbusy hn hm, rfl⟩
  · obtain ⟨n, hrun⟩ := run_ticks_timeout hbusy hm
    exact ⟨_, hrun, rfl, rfl, rfl, rfl⟩

end Sys2Proof.Machine
end

section
/-! PROOFS. The attempt (R192): what one answered read does to the decoder, and the function the decoder has still to
compute, state by state; then the runs of reads that end the attempt and those that do not. -/

namespace Sys2Proof.Machine

/-! One read. -/

/-- The decoder after a read that ends in the byte `b` (R97, R172 to R183). -/
def Dec.takeByte (b : Byte) (d : Dec) : Dec :=
  match d.state with
  | .seekStart => if b = Config.startMarker then d.seekHit else d.reload
  | .readLength => if lengthLegal b then d.takeLength b else d.rejectLength b
  | .readPayload => d.takeData b
  | .readChecksum => d.takeChecksum b
  | .readEnd => d.raise (if b = Config.endMarker then d.verdict else .desync)
  | .idle | .done => d

/-- The decoder after a read that LINK_RX answers with the item. -/
def Dec.takeItem (d : Dec) : LinkItem → Dec
  | .byte b => d.takeByte b
  | .timeout => d.timeoutSignal

/-- The operation a byte selects takes it. -/
theorem exec_of_decodeRx {s : State} {b : Byte} {i : Instr} (h : decodeRx s.dec.state b = .op i) :
    exec i s = .next (s.withDec (s.dec.takeByte b)) := by
  cases hst : s.dec.state <;> simp only [hst, decodeRx, Dec.takeByte] at h ⊢
  case idle | done => cases h
  case seekStart =>
    split at h <;> cases h
    next hb => rw [if_pos hb, exec_decSeekHit hst]
    next hb => rw [if_neg hb, exec_decSeekSkip hst hb]
  case readLength =>
    split at h <;> cases h
    next hb => rw [if_pos hb, exec_decLenOk hst hb]
    next hb => rw [if_neg hb, exec_decLenBad hst (Bool.eq_false_iff.mpr hb)]
  case readPayload =>
    cases h
    exact exec_decDataByte b hst
  case readChecksum =>
    cases h
    exact exec_decChkByte b hst
  case readEnd =>
    split at h <;> cases h
    next hb => rw [if_pos hb, exec_decEndOk hst]
    next hb => rw [if_neg hb, exec_decEndBad hst hb]

theorem Dec.exists_decodeRx_of_busy {d : Dec} (h : d.busy = true) (b : Byte) : ∃ i, decodeRx d.state b = .op i := by
  obtain ⟨hidle, hdone⟩ := d.busy_iff_ne.mp h
  cases hst : d.state with
  | idle => exact absurd hst hidle
  | done => exact absurd hst hdone
  | readPayload | readChecksum => exact ⟨_, rfl⟩
  | seekStart | readLength | readEnd =>
    rw [decodeRx]
    split <;> exact ⟨_, rfl⟩

theorem Dec.exists_decodeTimeout_of_busy {d : Dec} (h : d.busy = true) : ∃ i, decodeTimeout d.state = .op i := by
  obtain ⟨hidle, hdone⟩ := d.busy_iff_ne.mp h
  cases hst : d.state with
  | idle => exact absurd hst hidle
  | done => exact absurd hst hdone
  | seekStart | readLength | readPayload | readChecksum | readEnd => exact ⟨_, rfl⟩

/-- A read consumes the item on offer, and the decoder takes it (R68, R223). -/
theorem step_linkRx {s : State} {it : LinkItem} {r : List LinkItem} {ms : List Move} (hm : s.moves = .linkRx :: ms)
    (hrx : s.rxStream = it :: r) (hbusy : s.dec.busy = true) :
    step s = .next { s with dec := s.dec.takeItem it, rxStream := r, moves := ms } := by
  have htake : s.takeMove .linkRx = { s with rxStream := r, moves := ms } := by
    simp only [State.takeMove, hm, hrx, List.tail_cons]
  cases it with
  | byte b =>
    obtain ⟨i, hi⟩ := Dec.exists_decodeRx_of_busy hbusy b
    have hev : s.presented .linkRx = some (.rxTransfer b) := by rw [State.presented, hrx]
    rw [step_of_op hm hev hi, htake]
    exact exec_of_decodeRx (s := { s with rxStream := r, moves := ms }) hi
  | timeout =>
    obtain ⟨i, hi⟩ := Dec.exists_decodeTimeout_of_busy hbusy
    have hev : s.presented .linkRx = some .timeoutSignal := by rw [State.presented, hrx]
    rw [step_of_op hm hev hi, htake]
    exact exec_of_decodeTimeout (s := { s with rxStream := r, moves := ms }) hi

/-! The payload (R170). -/

theorem Dec.payload_of_nothingCollected {d : Dec} (h : d.nothingCollected) : d.payload = [] := by
  obtain ⟨-, hcnt, -, -⟩ := h
  rw [Dec.payload, hcnt]
  rfl

theorem Dec.payload_takeData {d : Dec} (b : Byte) (h : d.rxCnt.toNat < 200) :
    (d.takeData b).payload = d.payload ++ [b] := by
  rw [Dec.payload, Dec.takeData_rxCnt, Dec.takeData_rxbuf, byte_toNat_add_one (by omega), Memory.store_of_lt _ _ h,
    Memory.bytes_write_end, Dec.payload]

theorem Dec.collecting_takeLength (d : Dec) {b : Byte} (h : lengthLegal b = true) : (d.takeLength b).collecting := by
  obtain ⟨hmin, hmax⟩ := (lengthLegal_iff b).mp h
  exact ⟨hmin, hmax, Nat.zero_add _, rfl⟩

/-- A payload byte still to come is one that there is room for, and with it one byte less is to come (R45 a, c). -/
theorem Dec.collecting_takeData {d : Dec} {n : Nat} (h : d.collecting) (hrem : d.rxRem.toNat = n + 1) (b : Byte) :
    (d.takeData b).collecting ∧ (d.takeData b).rxRem.toNat = n ∧ (d.takeData b).payload = d.payload ++ [b] := by
  obtain ⟨hmin, (hmax : d.rxLen.toNat ≤ 200), hsum, hcrc⟩ := h
  have hroom : d.rxCnt.toNat < 200 := by omega
  have hpayload := Dec.payload_takeData b hroom
  have hleft : (d.rxRem - 1#8).toNat = n := by bv_omega
  have hcount : (d.rxCnt + 1#8).toNat = d.rxCnt.toNat + 1 := byte_toNat_add_one (by omega)
  refine ⟨⟨hmin, hmax, ?_, ?_⟩, hleft, hpayload⟩
  · rw [Dec.takeData_rxCnt, Dec.takeData_rxRem, Dec.takeData_rxLen, hcount, hleft]
    omega
  · rw [Dec.crcSoFar, hpayload, Dec.takeData_rxLen, crc8_cons_concat, Dec.takeData_crc, hcrc, Dec.crcSoFar]

/-! What is still to compute. -/

/-- The decoder, in an attempt or at its end, has still to compute this function of the items to come (R192). -/
inductive Dec.Awaits (d : Dec) : (List LinkItem → Option AttemptResult) → Prop where
  | startMarker (hst : d.state = .seekStart) (hout : d.status = .noOutcome) (hnone : d.nothingCollected) :
      d.Awaits attempt
  | length (hst : d.state = .readLength) (hout : d.status = .noOutcome) (hnone : d.nothingCollected) :
      d.Awaits attemptLen
  | payload {n : Nat} (hst : d.state = .readPayload) (hout : d.status = .noOutcome) (hsome : d.collecting)
      (hrem : d.rxRem.toNat = n + 1) : d.Awaits (attemptData d.rxLen (n + 1) d.payload)
  | checksum (hst : d.state = .readChecksum) (hout : d.status = .noOutcome) (hcrc : d.crc = d.crcSoFar) :
      d.Awaits (attemptChk d.rxLen d.payload)
  | endMarker (hst : d.state = .readEnd) (hout : d.status = .noOutcome) (hcrc : d.crc = d.crcSoFar) :
      d.Awaits (attemptEnd d.rxLen d.payload d.rxChk)
  | nothing (hst : d.state = .done) : d.Awaits fun _ => some ⟨d.payload, d.status, 0⟩

/-- `DEC.START` begins the whole attempt. -/
theorem Dec.awaits_startAttempt (d : Dec) : d.startAttempt.Awaits attempt :=
  .startMarker rfl rfl ⟨rfl, rfl, rfl, rfl⟩

/-- The attempt has ended with the status `st`. -/
theorem Dec.awaits_raise (st : DecStatus) (d : Dec) : (d.raise st).Awaits fun _ => some ⟨d.payload, st, 0⟩ :=
  .nothing rfl

/-- Past the length, a decoder whose sequencer tells by the count to come whether the payload is at its end. -/
theorem Dec.awaits_attemptData {d : Dec} {n : Nat} (hout : d.status = .noOutcome) (hsome : d.collecting)
    (hrem : d.rxRem.toNat = n) (hst : d.state = if n = 0 then .readChecksum else .readPayload) :
    ∃ f, d.Awaits f ∧ ∀ r, f r = attemptData d.rxLen n d.payload r := by
  cases n with
  | zero =>
    obtain ⟨-, -, -, hcrc⟩ := hsome
    exact ⟨_, .checksum hst hout hcrc, fun r => by rw [attemptData]⟩
  | succ n => exact ⟨_, .payload hst hout hsome hrem, fun _ => rfl⟩

/-- The tests at the end of a frame, the end marker's first, as the decoder makes them (R182, R183). -/
theorem attemptEnd_byte (l : Byte) (p : List Byte) (c b : Byte) (r : List LinkItem) :
    attemptEnd l p c (.byte b :: r) = some ⟨p,
      if b = Config.endMarker then if crc8 (l :: p) = c then .success else .crcMismatch else .desync, 1⟩ := by
  simp only [attemptEnd, ne_eq, ite_not]
  split_ifs <;> rfl

section
variable {d : Dec} {f : List LinkItem → Option AttemptResult}

theorem Dec.Awaits.done_of_not_busy (h : d.Awaits f) (hbusy : d.busy = false) (items : List LinkItem) :
    d.state = .done ∧ f items = some ⟨d.payload, d.status, 0⟩ := by
  cases h with
  | nothing hst => exact ⟨hst, rfl⟩
  | startMarker hst | length hst | payload hst | checksum hst | endMarker hst =>
    rw [Dec.busy, hst] at hbusy
    cases hbusy

theorem Dec.Awaits.busy_of_eq_none (h : d.Awaits f) {items : List LinkItem} (hnone : f items = none) :
    d.busy = true := by
  by_contra hbusy
  cases (h.done_of_not_busy (Bool.eq_false_iff.mpr hbusy) items).2.symm.trans hnone

theorem Dec.Awaits.noOutcome_of_busy (h : d.Awaits f) (hbusy : d.busy = true) : d.status = .noOutcome := by
  cases h with
  | nothing hst => exact absurd hst (d.busy_iff_ne.mp hbusy).2
  | startMarker _ hout | length _ hout | payload _ hout | checksum _ hout | endMarker _ hout => exact hout

/-- In a reading state the attempt is not finished without another item. -/
theorem Dec.Awaits.apply_nil_of_busy (h : d.Awaits f) (hbusy : d.busy = true) : f [] = none := by
  cases h with
  | nothing hst => exact absurd hst (d.busy_iff_ne.mp hbusy).2
  | startMarker | length | payload | checksum | endMarker => rfl

/-- A TimeoutSignal ends the attempt with the payload so far (R174 to R184, R192). -/
theorem Dec.Awaits.apply_timeout_of_busy (h : d.Awaits f) (hbusy : d.busy = true) (r : List LinkItem) :
    f (.timeout :: r) = some ⟨d.payload, if d.state = .readEnd then .desync else .timeout, 1⟩ := by
  cases h with
  | nothing hst => exact absurd hst (d.busy_iff_ne.mp hbusy).2
  | startMarker hst _ hnone | length hst _ hnone =>
    rw [hst, Dec.payload_of_nothingCollected hnone]
    rfl
  | payload hst | checksum hst | endMarker hst =>
    rw [hst]
    rfl

/-- A byte takes the attempt one item further (R192). -/
theorem Dec.Awaits.takeByte_of_busy (h : d.Awaits f) (hbusy : d.busy = true) (b : Byte) :
    ∃ f', (d.takeByte b).Awaits f' ∧ ∀ r, f (.byte b :: r) = (f' r).map .more := by
  cases h with
  | nothing hst => exact absurd hst (d.busy_iff_ne.mp hbusy).2
  | startMarker hst hout hnone =>
    simp only [Dec.takeByte, hst, attempt]
    split
    · exact ⟨_, .length rfl hout hnone, fun _ => rfl⟩
    · exact ⟨_, .startMarker hst hout hnone, fun _ => rfl⟩
  | length hst hout hnone =>
    simp only [Dec.takeByte, hst, attemptLen]
    split
    next hlegal =>
      have hne : b.toNat ≠ 0 := Nat.ne_of_gt ((lengthLegal_iff b).mp hlegal).1
      obtain ⟨f', hf', happly⟩ := Dec.awaits_attemptData (d := d.takeLength b) (n := b.toNat) hout
        (Dec.collecting_takeLength d hlegal) rfl (if_neg hne).symm
      exact ⟨f', hf', fun r => by rw [happly]; rfl⟩
    next =>
      have hpayload : (d.rejectLength b).payload = [] := Dec.payload_of_nothingCollected hnone
      refine ⟨_, .nothing rfl, fun _ => ?_⟩
      rw [hpayload]
      rfl
  | @payload n hst hout hsome hrem =>
    simp only [Dec.takeByte, hst, attemptData]
    obtain ⟨hsome', hrem', hpayload⟩ := Dec.collecting_takeData hsome hrem b
    have hlast : d.rxRem - 1#8 = 0x00#8 ↔ n = 0 := by
      rw [← hrem', BitVec.toNat_eq]
      rfl
    obtain ⟨f', hf', happly⟩ := Dec.awaits_attemptData (d := d.takeData b) hout hsome' hrem' (if_congr hlast rfl rfl)
    exact ⟨f', hf', fun r => by rw [happly, hpayload, Dec.takeData_rxLen]⟩
  | checksum hst hout hcrc =>
    simp only [Dec.takeByte, hst, attemptChk]
    exact ⟨_, .endMarker rfl hout hcrc, fun _ => rfl⟩
  | endMarker hst hout hcrc =>
    simp only [Dec.takeByte, hst]
    refine ⟨_, Dec.awaits_raise _ d, fun _ => ?_⟩
    rw [attemptEnd_byte, Dec.verdict_eq, hcrc]
    rfl

/-- An item takes the attempt one item further. -/
theorem Dec.Awaits.takeItem_of_busy (h : d.Awaits f) (hbusy : d.busy = true) (it : LinkItem) :
    ∃ f', (d.takeItem it).Awaits f' ∧ ∀ r, f (it :: r) = (f' r).map .more := by
  cases it with
  | byte b => exact h.takeByte_of_busy hbusy b
  | timeout =>
    rw [Dec.takeItem, Dec.timeoutSignal_of_busy hbusy]
    exact ⟨_, Dec.awaits_raise _ d, h.apply_timeout_of_busy hbusy⟩

end

/-! Runs of reads. -/

theorem step_decStart {s : State} {ms : List Move} (hm : s.moves = .host .decStart :: ms) (hbusy : s.dec.busy = false) :
    step s = .next { s with dec := s.dec.startAttempt, moves := ms } := by
  have hspend : s.spendMove = { s with moves := ms } := by rw [State.spendMove, hm, List.tail_cons]
  rw [step_host hm, hspend]
  exact exec_decStart_of_not_busy (s := { s with moves := ms }) hbusy

section
variable {f : List LinkItem → Option AttemptResult} {items : List LinkItem} {rest : List Move} {s : State}

/-- A decoder that has ended the attempt needs no read. -/
theorem run_reads_of_not_busy {r : AttemptResult} (hbusy : s.dec.busy = false) (h : s.dec.Awaits f)
    (hr : f items = some r) (hrx : s.rxStream = items) (hm : s.moves = List.replicate r.consumed .linkRx ++ rest) :
    ∃ d, run r.consumed s = .next { s with dec := d, rxStream := items.drop r.consumed, moves := rest } ∧
      d.state = .done ∧ d.status = r.status ∧ d.payload = r.payload := by
  obtain ⟨hst, hend⟩ := h.done_of_not_busy hbusy items
  cases hr.symm.trans hend
  subst hm hrx
  exact ⟨s.dec, rfl, hst, rfl, rfl⟩

/-- Where the attempt ends, it ends with as many reads as it consumes items. -/
theorem run_reads_of_ended {r : AttemptResult} (h : s.dec.Awaits f) (hr : f items = some r)
    (hrx : s.rxStream = items) (hm : s.moves = List.replicate r.consumed .linkRx ++ rest) :
    ∃ d, run r.consumed s = .next { s with dec := d, rxStream := items.drop r.consumed, moves := rest } ∧
      d.state = .done ∧ d.status = r.status ∧ d.payload = r.payload := by
  induction items generalizing s f r with
  | nil =>
    cases hbusy : s.dec.busy with
    | false => exact run_reads_of_not_busy hbusy h hr hrx hm
    | true => cases (h.apply_nil_of_busy hbusy).symm.trans hr
  | cons it items ih =>
    cases hbusy : s.dec.busy with
    | false => exact run_reads_of_not_busy hbusy h hr hrx hm
    | true =>
      obtain ⟨f', hf', happly⟩ := h.takeItem_of_busy hbusy it
      obtain ⟨r', hr', rfl⟩ := Option.map_eq_some_iff.mp ((happly items).symm.trans hr)
      have hstep := step_linkRx hm hrx hbusy
      obtain ⟨d, hrun, hend⟩ := ih (s := { s with dec := s.dec.takeItem it, rxStream := items, moves := _ })
        hf' hr' rfl rfl
      exact ⟨d, (run_succ hstep).trans hrun, hend⟩

/-- Where the attempt does not end, every item is read and the decoder waits for another. -/
theorem run_reads_of_not_ended (h : s.dec.Awaits f) (hnone : f items = none) (hrx : s.rxStream = items)
    (hm : s.moves = List.replicate items.length .linkRx ++ rest) :
    ∃ d, run items.length s = .next { s with dec := d, rxStream := [], moves := rest } ∧
      d.busy = true ∧ d.status = .noOutcome := by
  induction items generalizing s f with
  | nil =>
    have hbusy := h.busy_of_eq_none hnone
    subst hm
    have hsame : s = { s with rxStream := [] } := by rw [← hrx]
    exact ⟨s.dec, congrArg Host.Outcome.next hsame, hbusy, h.noOutcome_of_busy hbusy⟩
  | cons it items ih =>
    have hbusy := h.busy_of_eq_none hnone
    obtain ⟨f', hf', happly⟩ := h.takeItem_of_busy hbusy it
    have hnone' : f' items = none := Option.map_eq_none_iff.mp ((happly items).symm.trans hnone)
    have hstep := step_linkRx hm hrx hbusy
    obtain ⟨d, hrun, hend⟩ := ih (s := { s with dec := s.dec.takeItem it, rxStream := items, moves := _ })
      hf' hnone' rfl rfl
    exact ⟨d, (run_succ hstep).trans hrun, hend⟩

end

/-- Settles O52: `DEC.START` leaves the whole attempt to compute, and the reads compute it. -/
theorem decoderComputesTheAttempt : Obligations.DecoderComputesTheAttempt := by
  intro s items rest hbusy hrx
  refine ⟨fun r hr hm => ?_, fun hnone hm => ?_⟩
  · have hstep := step_decStart hm hbusy
    obtain ⟨d, hrun, hst, hstatus, hpayload⟩ :=
      run_reads_of_ended (s := { s with dec := s.dec.startAttempt, moves := _ }) s.dec.awaits_startAttempt hr hrx rfl
    exact ⟨_, (run_succ hstep).trans hrun, hst, hstatus, hpayload, rfl, rfl, rfl, rfl, rfl⟩
  · have hstep := step_decStart hm hbusy
    obtain ⟨d, hrun, hbusy', hstatus⟩ :=
      run_reads_of_not_ended (s := { s with dec := s.dec.startAttempt, moves := _ }) s.dec.awaits_startAttempt hnone hrx
        rfl
    exact ⟨_, (run_succ hstep).trans hrun, hbusy', hstatus, rfl, rfl⟩

end Sys2Proof.Machine
end

section
/-! PROOFS. The reset of the core (R270, R271): what the operation answers, then the flags of the state it answers. -/

namespace Sys2Proof.Machine

theorem exec_sysReset (s : State) :
    exec .sysReset s = .next (((s.withCrc0 Config.crcInit).withEnc Enc.reset).withDec Dec.reset) := rfl

/-- R27, R38, R46: a state whose two units are just reset shows the flags of idle units, whatever else it holds. -/
theorem State.flags_of_units_reset {s : State} (henc : s.enc = Enc.reset) (hdec : s.dec = Dec.reset) :
    s.encBusy = false ∧ s.encPushReady = true ∧ s.txValid = false ∧
    s.decBusy = false ∧ s.decDone = false ∧ s.rxReady = false := by
  obtain ⟨hencBusy, hpushReady, htxValid⟩ :=
    State.encFlags_of_idle_of_txCnt_eq_zero (congrArg Enc.state henc) (congrArg Enc.txCnt henc)
  exact ⟨hencBusy, hpushReady, htxValid, State.decFlags_of_idle (congrArg Dec.state hdec)⟩

/-- Settles O27: the next state differs from the old one in the checksum register and in the two units alone, which are the
reset records (their buffers the unspecified contents of the statement), and the flags follow from these two. -/
theorem resetSetsEveryRegister : Obligations.ResetSetsEveryRegister := by
  intro s
  refine ⟨Enc.reset.txbuf, Dec.reset.rxbuf, exec_sysReset s, fun t ht => ?_⟩
  obtain rfl := Host.Outcome.next.inj ((exec_sysReset s).symm.trans ht)
  exact State.flags_of_units_reset (by simp) (by simp)

end Sys2Proof.Machine
end

section
/-! PROOFS. Selection and its reverse (R97 to R99): every operation's selection decodes to it, and a selection that decodes is
the one its operation names, event class by event class. -/

namespace Sys2Proof.Machine

/-- The round trip of the operation map, the lemma of each operation put together. -/
theorem decode_encode (i : Instr) : Laws.RoundTrip.Statement i := by
  cases i with
  | crcClr => exact Laws.RoundTrip.crcClr
  | crcByte b => exact Laws.RoundTrip.crcByte b
  | crcRead => exact Laws.RoundTrip.crcRead
  | encClear => exact Laws.RoundTrip.encClear
  | encPush v => exact Laws.RoundTrip.encPush v
  | encStart => exact Laws.RoundTrip.encStart
  | encEmitStart => exact Laws.RoundTrip.encEmitStart
  | encEmitLen => exact Laws.RoundTrip.encEmitLen
  | encEmitData => exact Laws.RoundTrip.encEmitData
  | encEmitChk => exact Laws.RoundTrip.encEmitChk
  | encEmitEnd => exact Laws.RoundTrip.encEmitEnd
  | decStart => exact Laws.RoundTrip.decStart
  | decSeekHit => exact Laws.RoundTrip.decSeekHit
  | decSeekSkip b => exact Laws.RoundTrip.decSeekSkip b
  | decSeekTmo => exact Laws.RoundTrip.decSeekTmo
  | decLenOk b => exact Laws.RoundTrip.decLenOk b
  | decLenBad b => exact Laws.RoundTrip.decLenBad b
  | decLenTmo => exact Laws.RoundTrip.decLenTmo
  | decDataByte b => exact Laws.RoundTrip.decDataByte b
  | decDataTmo => exact Laws.RoundTrip.decDataTmo
  | decChkByte b => exact Laws.RoundTrip.decChkByte b
  | decChkTmo => exact Laws.RoundTrip.decChkTmo
  | decEndOk => exact Laws.RoundTrip.decEndOk
  | decEndBad b => exact Laws.RoundTrip.decEndBad b
  | decEndTmo => exact Laws.RoundTrip.decEndTmo
  | decTick => exact Laws.RoundTrip.decTick
  | decSetTmo t => exact Laws.RoundTrip.decSetTmo t
  | decResult => exact Laws.RoundTrip.decResult
  | decRdbuf n => exact Laws.RoundTrip.decRdbuf n
  | sysReset => exact Laws.RoundTrip.sysReset

/-- Settles O37: the round trip of each of the 30 operations. -/
theorem selectionOfEveryOperationDecodesToIt : Obligations.SelectionOfEveryOperationDecodesToIt :=
  fun i e d hwf => decode_encode i hwf e d

/-! The reverse. -/

/-- The operation `i` is well-formed, and `w` is its selection in the states `w` names. -/
def Selects (w : Selection) (i : Instr) : Prop :=
  i.wellFormed = true ∧ encode w.enc w.dec i = w

theorem wellFormed_decLenBad {b : Byte} (h : ¬ lengthLegal b = true) : Instr.wellFormed (.decLenBad b) = true := by
  rw [lengthLegal_iff] at h
  simp only [Instr.wellFormed, Config.lenMin, Config.lenMax, Bool.or_eq_true, decide_eq_true_eq]
  omega

theorem selects_decodeHost (e : EncState) (d : DecState) (c : HostCmd) : Selects ⟨e, d, .host c⟩ (decodeHost c) := by
  cases c <;> exact ⟨rfl, rfl⟩

theorem selects_of_decodeTx {e : EncState} {i : Instr} (h : decodeTx e = .op i) (d : DecState) :
    Selects ⟨e, d, .txTransfer⟩ i := by
  cases e with
  | idle => cases h
  | emitStart | emitLen | emitPayload | emitChecksum | emitEnd => cases h; exact ⟨rfl, rfl⟩

theorem selects_of_decodeTimeout {d : DecState} {i : Instr} (h : decodeTimeout d = .op i) (e : EncState) :
    Selects ⟨e, d, .timeoutSignal⟩ i := by
  cases d with
  | idle | done => cases h
  | seekStart | readLength | readPayload | readChecksum | readEnd => cases h; exact ⟨rfl, rfl⟩

/-- A byte's tests are those of the operation's well-formedness, and a marker is the byte its operation stands for. -/
theorem selects_of_decodeRx {d : DecState} {b : Byte} {i : Instr} (h : decodeRx d b = .op i) (e : EncState) :
    Selects ⟨e, d, .rxTransfer b⟩ i := by
  cases d <;> simp only [decodeRx] at h
  case idle | done => cases h
  case seekStart =>
    split at h <;> cases h
    next hb => exact ⟨rfl, by rw [hb]; rfl⟩
    next hb => exact ⟨bne_iff_ne.mpr hb, rfl⟩
  case readLength =>
    split at h <;> cases h
    next hb => exact ⟨hb, rfl⟩
    next hb => exact ⟨wellFormed_decLenBad hb, rfl⟩
  case readPayload | readChecksum => cases h; exact ⟨rfl, rfl⟩
  case readEnd =>
    split at h <;> cases h
    next hb => exact ⟨rfl, by rw [hb]; rfl⟩
    next hb => exact ⟨bne_iff_ne.mpr hb, rfl⟩

theorem selects_of_decode {w : Selection} {i : Instr} (h : decode w = .op i) : Selects w i := by
  obtain ⟨e, d, ev⟩ := w
  cases ev with
  | host c => cases h; exact selects_decodeHost e d c
  | txTransfer => exact selects_of_decodeTx h d
  | rxTransfer b => exact selects_of_decodeRx h e
  | timeoutSignal => exact selects_of_decodeTimeout h e
  | tick | rst => cases h; exact ⟨rfl, rfl⟩

/-- Settles O38: one lemma for each class of events. -/
theorem decodedSelectionIsTheOperationsOwn : Obligations.DecodedSelectionIsTheOperationsOwn :=
  fun _ _ h => selects_of_decode h

/-- Settles O36: the round trip of seven operations, the operands being the bits' values. -/
theorem writtenSelectionsDecode : Obligations.WrittenSelectionsDecode :=
  ⟨decode_encode .decSeekHit rfl .idle .seekStart, decode_encode (.decLenOk 200) rfl .idle .readLength,
    decode_encode (.decLenBad 201) rfl .idle .readLength, decode_encode .decEndOk rfl .idle .readEnd,
    decode_encode .encEmitEnd rfl .emitEnd .idle, decode_encode .decEndTmo rfl .idle .readEnd,
    decode_encode (.crcByte 0x14#8) rfl .idle .idle⟩

end Sys2Proof.Machine
end

section
/-! PROOFS. The invariant (R44, R45, R245): what a change of a unit keeps, from the list of the changes an operation can make
(`EncChange`, `DecChange`); then reset and the step. -/

namespace Sys2Proof.Machine

/-! The encoder (R44). -/

/-- R44 d: the checksum over one more byte of the buffer is one more byte step. -/
theorem Enc.crcUpTo_succ {e : Enc} {i : Nat} {b : Byte} (hb : Memory.read? e.txbuf i = some b) :
    e.crcUpTo (i + 1) = crcByte (e.crcUpTo i) b := by
  rw [Enc.crcUpTo, Memory.bytes_succ, hb, Option.toList_some, crc8_cons_concat, Enc.crcUpTo]

/-- Past the length byte, an encoder whose sequencer tells by the index whether the payload is at its end. -/
theorem Enc.inv_of_index {e : Enc} (hbuf : bufferInv 255 e.txbuf)
    (hwritten : Memory.written e.txbuf e.txCnt.toNat = true) (hidx : e.txIdx.toNat ≤ e.txCnt.toNat)
    (hcrc : e.crc = e.crcUpTo e.txIdx.toNat)
    (hst : e.state = if e.txIdx = e.txCnt then .emitChecksum else .emitPayload) : e.inv := by
  refine ⟨hbuf, hwritten, ?_⟩
  rw [hst]
  by_cases hend : e.txIdx = e.txCnt
  · rw [if_pos hend]
    exact ⟨hend, hend ▸ hcrc⟩
  · rw [if_neg hend]
    exact ⟨Nat.lt_of_le_of_ne hidx (mt BitVec.eq_of_toNat_eq hend), hcrc⟩

theorem Enc.inv_reset : Enc.reset.inv := ⟨bufferInv_nil 255, rfl, trivial⟩

/-- Every change of the encoder keeps its invariant. -/
theorem EncChange.inv {i : Instr} {e e' : Enc} {out : List Byte} (h : EncChange i e e' out) (hinv : e.inv) :
    e'.inv := by
  obtain ⟨hbuf, hwritten, hseq⟩ := hinv
  cases h with
  | clear hst => exact ⟨hbuf, rfl, by rw [Enc.clear_state, hst]; trivial⟩
  | push hst hroom =>
    refine ⟨bufferInv_write hbuf hroom _, ?_, by rw [Enc.push_state, hst]; trivial⟩
    rw [Enc.push_txCnt, byte_toNat_add_one hroom]
    exact Memory.written_write_end hwritten _
  | start => exact ⟨hbuf, hwritten, rfl, rfl⟩
  | emitStart hst =>
    rw [hst] at hseq
    exact ⟨hbuf, hwritten, hseq⟩
  | emitLen hst =>
    rw [hst] at hseq
    obtain ⟨hidx, -⟩ := hseq
    refine Enc.inv_of_index hbuf hwritten ?_ ?_ ?_
    · rw [Enc.afterLen_txIdx, hidx]
      exact Nat.zero_le _
    · rw [Enc.afterLen_txIdx, hidx]
      rfl
    · rw [Enc.afterLen_txIdx, hidx]
      exact if_congr eq_comm rfl rfl
  | emitData hst hb =>
    rw [hst] at hseq
    obtain ⟨hidx, hcrc⟩ := hseq
    have hdepth : e.txIdx.toNat < 255 := by omega
    obtain ⟨c, hc⟩ := Memory.read?_of_written hwritten hidx
    obtain rfl := hb c ((Memory.cell?_of_lt _ hdepth).trans hc)
    have hsucc := byte_toNat_add_one hdepth
    refine Enc.inv_of_index hbuf hwritten ?_ ?_ rfl
    · rw [Enc.afterData_txIdx, hsucc]
      exact hidx
    · rw [Enc.afterData_txIdx, hsucc, Enc.afterData_crc, hcrc]
      exact (Enc.crcUpTo_succ hc).symm
  | emitChk hst =>
    rw [hst] at hseq
    exact ⟨hbuf, hwritten, hseq⟩
  | emitEnd => exact ⟨hbuf, rfl, trivial⟩
  | reset => exact Enc.inv_reset

/-! The decoder's buffer and counts (R45 e), which hold of any buffer, canonical or not. -/

/-- The bytes counted are held, and there are no more of them than cells. -/
def Dec.Held (d : Dec) : Prop :=
  Memory.written d.rxbuf d.rxCnt.toNat = true ∧ d.rxCnt.toNat ≤ 200

theorem Dec.held_of_rxCnt_eq_zero {d : Dec} (h : d.rxCnt = 0x00#8) : d.Held := by
  rw [Dec.Held, h]
  exact ⟨rfl, Nat.zero_le _⟩

theorem Dec.held_takeData {d : Dec} (h : d.Held) (hroom : d.rxCnt.toNat < 200) (b : Byte) : (d.takeData b).Held := by
  rw [Dec.Held, Dec.takeData_rxCnt, Dec.takeData_rxbuf, byte_toNat_add_one (by omega), Memory.store_of_lt _ _ hroom]
  exact ⟨Memory.written_write_end h.1 b, hroom⟩

/-- Every change of the decoder keeps the bytes counted held, if there is room for a payload byte that comes. -/
theorem DecChange.held {i : Instr} {d d' : Dec} (h : DecChange i d d') (hheld : d.Held)
    (hroom : d.state = .readPayload → d.rxCnt.toNat < 200) : d'.Held := by
  cases h with
  | start | lenOk | reset => exact Dec.held_of_rxCnt_eq_zero rfl
  | dataByte hst => exact Dec.held_takeData hheld (hroom hst) _
  | seekHit | seekSkip | seekTmo | lenBad | lenTmo | dataTmo | chkByte | chkTmo | endOk | endBad | endTmo | tickFires
  | tickCounts | setTimeout => exact hheld

theorem DecChange.bufferInv {i : Instr} {d d' : Dec} (h : DecChange i d d') (hbuf : bufferInv 200 d.rxbuf) :
    bufferInv 200 d'.rxbuf := by
  cases h with
  | dataByte => exact bufferInv_store hbuf _ _
  | reset => exact bufferInv_nil 200
  | start | seekHit | seekSkip | seekTmo | lenOk | lenBad | lenTmo | dataTmo | chkByte | chkTmo | endOk | endBad | endTmo
  | tickFires | tickCounts | setTimeout => exact hbuf

/-! The decoder's registers, by the state of its sequencer (R45, R245). -/

/-- What the sequencer's state says of the registers: the last part of `Dec.inv`. -/
def Dec.SequencerInv (d : Dec) : DecState → Prop
  | .idle | .seekStart | .readLength => d.nothingCollected ∧ d.rxLen = 0x00#8 ∧ d.status = .noOutcome
  | .readPayload => d.collecting ∧ 1 ≤ d.rxRem.toNat ∧ d.rxChk = 0x00#8 ∧ d.status = .noOutcome
  | .readChecksum => d.collected ∧ d.rxChk = 0x00#8 ∧ d.status = .noOutcome
  | .readEnd => d.collected ∧ d.status = .noOutcome
  | .done => d.doneInv

theorem Dec.inv_iff (d : Dec) : d.inv ↔ bufferInv 200 d.rxbuf ∧ d.Held ∧ d.SequencerInv d.state :=
  ⟨fun ⟨hbuf, hwritten, hle, hseq⟩ => ⟨hbuf, ⟨hwritten, hle⟩, hseq⟩,
    fun ⟨hbuf, ⟨hwritten, hle⟩, hseq⟩ => ⟨hbuf, hwritten, hle, hseq⟩⟩

/-- The TimeoutSignal, or the tick that stands for it, leaves what the table of R245 says. -/
theorem Dec.doneInv_raise_timeoutSignal {d : Dec} {st : DecState} (h : d.SequencerInv st) (hidle : st ≠ .idle)
    (hdone : st ≠ .done) : (d.raise (if st = .readEnd then .desync else .timeout)).doneInv := by
  cases st with
  | idle => exact absurd rfl hidle
  | seekStart | readLength =>
    obtain ⟨hnone, hlen, -⟩ := h
    exact .inl ⟨hnone, hlen⟩
  | readPayload =>
    obtain ⟨hsome, -, hchk, -⟩ := h
    exact .inr ⟨hsome, hchk⟩
  | readChecksum =>
    obtain ⟨⟨hsome, -⟩, hchk, -⟩ := h
    exact .inr ⟨hsome, hchk⟩
  | readEnd => exact .inr h.1
  | done => exact absurd rfl hdone

/-- Either verdict leaves what the table of R245 says. -/
theorem Dec.doneInv_raise_verdict {d : Dec} (h : d.collected) : (d.raise d.verdict).doneInv := by
  rw [d.verdict_eq]
  split
  next hcrc => exact ⟨h, hcrc⟩
  next hcrc => exact ⟨h, hcrc⟩

/-- A payload byte leaves another to come, or the whole payload collected (R178). -/
theorem Dec.sequencerInv_takeData {d : Dec} (h : d.SequencerInv .readPayload) (b : Byte) :
    (d.takeData b).SequencerInv (d.takeData b).state := by
  obtain ⟨hsome, hmore, hchk, hout⟩ := h
  obtain ⟨n, hrem⟩ := Nat.exists_eq_add_of_le' hmore
  obtain ⟨hsome', hrem', -⟩ := Dec.collecting_takeData hsome hrem b
  rw [Dec.takeData_state]
  split
  next hlast => exact ⟨⟨hsome', hlast⟩, hchk, hout⟩
  next hlast =>
    have hpos : 1 ≤ (d.takeData b).rxRem.toNat := Nat.pos_of_ne_zero fun hzero => hlast (BitVec.eq_of_toNat_eq hzero)
    exact ⟨hsome', hpos, hchk, hout⟩

theorem DecChange.sequencerInv {i : Instr} {d d' : Dec} (h : DecChange i d d') (hseq : d.SequencerInv d.state) :
    d'.SequencerInv d'.state := by
  cases h with
  | start => exact ⟨⟨rfl, rfl, rfl, rfl⟩, rfl, rfl⟩
  | seekHit hst => rw [hst] at hseq; exact hseq
  | seekSkip | tickCounts | setTimeout => exact hseq
  | seekTmo hst | lenTmo hst | dataTmo hst | chkTmo hst | endTmo hst =>
    rw [hst] at hseq
    exact Dec.doneInv_raise_timeoutSignal hseq nofun nofun
  | lenOk hst hb =>
    rw [hst] at hseq
    obtain ⟨⟨-, -, hchk, -⟩, -, hout⟩ := hseq
    exact ⟨Dec.collecting_takeLength d hb, ((lengthLegal_iff _).mp hb).1, hchk, hout⟩
  | lenBad hst hb =>
    rw [hst] at hseq
    exact .inl ⟨hseq.1, hb⟩
  | dataByte hst => rw [hst] at hseq; exact Dec.sequencerInv_takeData hseq _
  | chkByte hst =>
    rw [hst] at hseq
    obtain ⟨hall, -, hout⟩ := hseq
    exact ⟨hall, hout⟩
  | endOk hst => rw [hst] at hseq; exact Dec.doneInv_raise_verdict hseq.1
  | endBad hst => rw [hst] at hseq; exact .inr hseq.1
  | tickFires hbusy =>
    obtain ⟨hidle, hdone⟩ := d.busy_iff_ne.mp hbusy
    exact Dec.doneInv_raise_timeoutSignal hseq hidle hdone
  | reset => exact ⟨⟨rfl, rfl, rfl, rfl⟩, rfl, rfl⟩

/-- While a payload byte is to come there is room for it. -/
theorem Dec.rxCnt_lt_of_collecting {d : Dec} (h : d.collecting) (hmore : 1 ≤ d.rxRem.toNat) : d.rxCnt.toNat < 200 := by
  obtain ⟨-, (hmax : d.rxLen.toNat ≤ 200), hsum, -⟩ := h
  omega

/-- Every change of the decoder keeps its invariant. -/
theorem DecChange.inv {i : Instr} {d d' : Dec} (h : DecChange i d d') (hinv : d.inv) : d'.inv := by
  obtain ⟨hbuf, hheld, hseq⟩ := d.inv_iff.mp hinv
  refine d'.inv_iff.mpr ⟨h.bufferInv hbuf, h.held hheld fun hst => ?_, h.sequencerInv hseq⟩
  rw [hst] at hseq
  obtain ⟨hsome, hmore, -⟩ := hseq
  exact Dec.rxCnt_lt_of_collecting hsome hmore

/-! The statements. -/

theorem Dec.inv_reset : Dec.reset.inv :=
  Dec.reset.inv_iff.mpr ⟨bufferInv_nil 200, Dec.held_of_rxCnt_eq_zero rfl, ⟨rfl, rfl, rfl, rfl⟩, rfl, rfl⟩

/-- Settles O42: the two units just reset meet their invariants. -/
theorem resetMeetsTheInvariant : Obligations.ResetMeetsTheInvariant := ⟨Enc.inv_reset, Dec.inv_reset⟩

/-- Settles O43: a step changes each unit, if it changes it, by one of the changes that keep its invariant. -/
theorem everyStepKeepsTheInvariant : Obligations.EveryStepKeepsTheInvariant := by
  rintro s t ⟨henc, hdec⟩ hstep
  constructor
  · rcases step_enc_cases hstep with ⟨hsame, -⟩ | ⟨_, _, hchange, -⟩
    · exact hsame ▸ henc
    · exact hchange.inv henc
  · rcases step_dec_cases hstep with hsame | ⟨_, hchange⟩
    · exact hsame ▸ hdec
    · exact hchange.inv hdec

end Sys2Proof.Machine
end

section
/-! PROOFS. The checksum of sequences (R129): what a byte step keeps of a difference, of a sum and of its own byte, carried
along the sequence; and the operations of CRC0 in a row (R106, R126). -/

namespace Sys2Proof.Machine

/-! The byte step with either argument varied. -/

theorem crcByte_comm (a b : Byte) : crcByte a b = crcByte b a := by
  rw [crcByte, BitVec.xor_comm, crcByte]

/-- A byte step loses nothing of the byte. -/
theorem crcByte_injective (a : Byte) : Function.Injective (crcByte a) := by
  intro x y hxy
  rw [crcByte_eq_crcByte_zero_xor a x, crcByte_eq_crcByte_zero_xor a y] at hxy
  exact BitVec.xor_right_inj a |>.mp (crcByte_zero_injective hxy)

theorem crcByte_xor_xor (a b x y : Byte) : crcByte (a ^^^ b) (x ^^^ y) = crcByte a x ^^^ crcByte b y := by
  have hswap : a ^^^ b ^^^ (x ^^^ y) = a ^^^ x ^^^ (b ^^^ y) := by ac_rfl
  rw [crcByte, hswap, crcBits_xor, crcByte, crcByte]

/-- A byte equal to the accumulator clears it. -/
theorem crcByte_self (a : Byte) : crcByte a a = 0x00#8 := by
  rw [crcByte, BitVec.xor_self]
  rfl

/-! Sequences. -/

/-- The bytes that follow lose nothing of the accumulator. -/
theorem crcFrom_injective (s : List Byte) : Function.Injective fun a => crcFrom a s := by
  induction s with
  | nil => exact fun _ _ h => h
  | cons b s ih =>
    intro x y hxy
    have hstep : crcByte x b = crcByte y b := ih hxy
    rw [crcByte_comm x, crcByte_comm y] at hstep
    exact crcByte_injective b hstep

/-- R129 c in general: another byte in one place is another checksum. -/
theorem crc8_ne_of_byte_ne {x y : Byte} (h : x ≠ y) (s t : List Byte) : crc8 (s ++ x :: t) ≠ crc8 (s ++ y :: t) := by
  intro heq
  simp only [crc8, crcFrom_append, crcFrom_cons] at heq
  exact h (crcByte_injective _ (crcFrom_injective t heq))

/-- A byte with one bit flipped is another byte. -/
theorem xor_shiftLeft_one_ne (b : Byte) {k : Nat} (hk : k < 8) : b ^^^ (0x01#8 <<< k) ≠ b := by
  have hbit : ∀ j < 8, (0x01#8 <<< j : Byte) ≠ 0x00#8 := by decide
  intro heq
  exact hbit k hk ((BitVec.xor_right_inj b).mp (heq.trans (BitVec.xor_zero (x := b)).symm))

/-- R129 d. -/
theorem crc8_concat_self (s : List Byte) : crc8 (s ++ [crc8 s]) = 0x00#8 := by
  rw [crc8_concat, crcByte_self]

/-- R129 e: from the initial value 0 a byte 0x00 leads back to it. -/
theorem crc8_zero_cons (s : List Byte) : crc8 (0x00#8 :: s) = crc8 s := by
  rw [crc8, crcFrom_cons, crcByte_self, crc8]

/-- R129 f, from any two accumulators. -/
theorem crcFrom_zipWith_xor {s t : List Byte} (hlen : s.length = t.length) (a b : Byte) :
    crcFrom (a ^^^ b) (List.zipWith (fun x y => x ^^^ y) s t) = crcFrom a s ^^^ crcFrom b t := by
  induction s generalizing t a b with
  | nil =>
    obtain rfl := List.length_eq_zero_iff.mp hlen.symm
    rfl
  | cons x s ih =>
    cases t with
    | nil => cases hlen
    | cons y t =>
      rw [List.zipWith_cons_cons, crcFrom_cons, crcByte_xor_xor, ih (Nat.succ.inj hlen), crcFrom_cons, crcFrom_cons]

theorem crc8_pair {a b x y : Byte} (hx : crcByte 0x00#8 a = x) (hy : crcByte x b = y) : crc8 [a, b] = y := by
  rw [crc8, crcFrom_cons, crcFrom_cons, crcFrom_nil, hx, hy]

/-- Settles O3: the witness of the order is computed; the other four follow from the injectivity and the linearity of the
byte step. -/
theorem checksumProperties : Obligations.ChecksumProperties :=
  ⟨⟨crc8_pair (x := 0x07#8) (by decide) (by decide), crc8_pair (x := 0x0E#8) (by decide) (by decide)⟩,
    fun s t b _ hk => crc8_ne_of_byte_ne (xor_shiftLeft_one_ne b hk) s t, crc8_concat_self, crc8_zero_cons,
    fun _ _ hlen => crcFrom_zipWith_xor hlen Config.crcInit Config.crcInit⟩

/-! The operations of CRC0. -/

/-- Settles O6: the next state is the old one with `crc0` noted. -/
theorem crcReadGivesTheAccumulator : Obligations.CrcReadGivesTheAccumulator := fun _ => rfl

theorem State.spendMove_of_moves {s : State} {m : Move} {ms : List Move} (h : s.moves = m :: ms) :
    s.spendMove = { s with moves := ms } := by
  rw [State.spendMove, h, List.tail_cons]

theorem step_crcByte {s : State} {b : Byte} {ms : List Move} (hm : s.moves = .host (.crcByte b) :: ms) :
    step s = .next { s with crc0 := crcByte s.crc0 b, moves := ms } := by
  rw [step_host hm, State.spendMove_of_moves hm]
  rfl

/-- The bytes offered one after another are folded into the accumulator (R125). -/
theorem run_crcBytes {bs : List Byte} {rest : List Move} {s : State}
    (hm : s.moves = bs.map (fun b => .host (.crcByte b)) ++ rest) :
    run bs.length s = .next { s with crc0 := crcFrom s.crc0 bs, moves := rest } := by
  induction bs generalizing s with
  | nil => subst hm; rfl
  | cons b bs ih => exact (run_succ (step_crcByte hm)).trans (ih rfl)

/-- Settles O7: the clear, the bytes, the read. -/
theorem checksumCommandsReadCrc8 : Obligations.ChecksumCommandsReadCrc8 := by
  intro s bs rest hm
  have hmoves : s.moves = .host .crcClr :: (bs.map (fun b => .host (.crcByte b)) ++ .host .crcRead :: rest) := by
    rw [hm, checksumMoves, List.append_assoc]
    rfl
  have hclear : step s = _ := (step_host hmoves).trans (exec_crcClr s.spendMove)
  have hbytes := run_crcBytes (s := s.spendMove.withCrc0 Config.crcInit) (congrArg List.tail hmoves)
  have hread : step { s with crc0 := crc8 bs, moves := .host .crcRead :: rest } =
      .next { s with crc0 := crc8 bs, moves := rest, crcSamples := s.crcSamples ++ [crc8 bs] } := rfl
  calc run (bs.length + 2) s
    _ = run (bs.length + 1) _ := run_succ hclear
    _ = run 1 _ := run_add hbytes
    _ = _ := run_succ hread

end Sys2Proof.Machine
end

section
/-! PROOFS. The reads of results (R189, R190), the cells that hold no byte (logs 7, 8), and the operations run where nothing
selects them (log 11). -/

namespace Sys2Proof.Machine

/-! The reads of results. -/

theorem exec_decResult_of_not_busy {s : State} (h : s.dec.busy = false) :
    exec .decResult s = .next (s.sampleDec s.dec.resultSample) :=
  if_neg (Bool.eq_false_iff.mp h)

theorem exec_decResult_of_busy {s : State} (h : s.dec.busy = true) : exec .decResult s = .refused .resultsInMotion :=
  if_pos h

theorem exec_decRdbuf_of_done {s : State} {i : Byte} (hst : s.dec.state = .done)
    (hi : i.toNat < s.dec.rxCnt.toNat ∧ i.toNat < 200) :
    exec (.decRdbuf i) s = .next ((s.drawRx i.toNat).sampleDec (.cell i (s.rxByte i.toNat))) := by
  rw [exec, execDecRdbuf, if_neg (not_not_intro hst), if_pos hi]

theorem exec_decRdbuf_of_not_payload {s : State} {i : Byte} (hst : s.dec.state = .done)
    (hi : ¬ (i.toNat < s.dec.rxCnt.toNat ∧ i.toNat < 200)) : exec (.decRdbuf i) s = .refused .noPayloadByte := by
  rw [exec, execDecRdbuf, if_neg (not_not_intro hst), if_neg hi]

theorem exec_decRdbuf_of_not_done {s : State} (i : Byte) (hst : s.dec.state ≠ .done) :
    exec (.decRdbuf i) s = .refused .bufferInMotion :=
  if_pos hst

/-- A payload byte that the buffer holds is the one the host reads. -/
theorem exec_decRdbuf_of_held {s : State} {i b : Byte} (hst : s.dec.state = .done)
    (hi : i.toNat < s.dec.rxCnt.toNat ∧ i.toNat < 200) (hb : Memory.read? s.dec.rxbuf i.toNat = some b) :
    exec (.decRdbuf i) s = .next (s.sampleDec (.cell i b)) := by
  obtain ⟨hbyte, hdraw⟩ := State.rxByte_of_held hi.2 hb
  rw [exec_decRdbuf_of_done hst hi, hbyte, hdraw]

/-- Settles O24: the guard is a decoder that is not busy. -/
theorem resultIsReadBetweenAttempts : Obligations.ResultIsReadBetweenAttempts :=
  fun s => ⟨fun hst => exec_decResult_of_not_busy (s.dec.busy_eq_false_iff.mpr hst), exec_decResult_of_busy⟩

/-- Settles O25: the guard is `Done` and an index that is both a payload byte's and a cell's. -/
theorem payloadIsReadInDone : Obligations.PayloadIsReadInDone := by
  refine fun s i => ⟨fun b hst hcnt hdepth hb => exec_decRdbuf_of_held hst ⟨hcnt, hdepth⟩ hb,
    fun hst hpast => exec_decRdbuf_of_not_payload hst ?_, exec_decRdbuf_of_not_done i⟩
  omega

/-! The cells that hold no byte. -/

/-- R148 whatever the cell holds. -/
theorem exec_encEmitData_of_emitPayload {s : State} (h : s.enc.state = .emitPayload) :
    exec .encEmitData s = .next (((s.drawTx s.enc.txIdx.toNat).linkWrite (s.txByte s.enc.txIdx.toNat)).withEnc
      (s.enc.afterData (s.txByte s.enc.txIdx.toNat))) := by
  simp only [exec, execEncEmitData, if_pos h, emitOn_true]

/-- R148 on a free byte, which is counted. -/
theorem exec_encEmitData_of_none {s : State} (h : s.enc.state = .emitPayload)
    (hcell : s.txCell? s.enc.txIdx.toNat = none) :
    ∃ b, exec .encEmitData s =
      .next ((State.linkWrite b { s with txFree := s.txFree + 1 }).withEnc (s.enc.afterData b)) :=
  ⟨_, by rw [exec_encEmitData_of_emitPayload h, State.drawTx_of_none hcell]⟩

/-- R178 past the buffer's end, where nothing is stored. -/
theorem Dec.takeData_of_le {d : Dec} (h : 200 ≤ d.rxCnt.toNat) (b : Byte) :
    d.takeData b = { d.takeData b with rxbuf := d.rxbuf } := by
  rw [← Memory.store_of_le d.rxbuf b h]
  rfl

/-- Settles O26: a cell below the depth that is not listed is one that holds no byte. -/
theorem unwrittenCellsGiveFreeBytes : Obligations.UnwrittenCellsGiveFreeBytes := by
  refine fun s => ⟨fun hst hidx hcell => ?_, fun i hst hcnt hdepth hcell => ⟨s.rxByte i.toNat, ?_⟩⟩
  · have hlast : s.enc.txIdx + 1#8 = s.enc.txCnt ↔ s.enc.txIdx.toNat + 1 = s.enc.txCnt.toNat := by
      rw [BitVec.toNat_eq, byte_toNat_add_one hidx]
    simp only [← hlast]
    exact exec_encEmitData_of_none hst ((Memory.cell?_of_lt _ hidx).trans hcell)
  · have hnone : s.rxCell? i.toNat = none := (Memory.cell?_of_lt _ hdepth).trans hcell
    rw [exec_decRdbuf_of_done hst ⟨hcnt, hdepth⟩, State.drawRx_of_none hnone]
    rfl

/-- Settles O29: an index at or past the depth is no cell, and what is stored there is nothing. -/
theorem accessOutsideABufferReachesNoCell : Obligations.AccessOutsideABufferReachesNoCell := by
  refine fun s => ⟨fun hst hidx => exec_encEmitData_of_none hst (Memory.cell?_of_le _ hidx), fun b hst hcnt => ?_⟩
  have hlast : s.dec.rxRem - 1#8 = 0x00#8 ↔ s.dec.rxRem.toNat = 1 := by
    bv_omega
  rw [exec_decDataByte b hst, Dec.takeData_of_le hcnt]
  simp only [← hlast]
  rfl

/-! The operations where nothing selects them. -/

theorem emitOn_of_not_guard {c : Bool} (h : c = false) (b : Byte) (e : Enc) (s : State) : emitOn c b e s = .next s := by
  rw [h, emitOn_false]

theorem exec_encEmitData_of_not_emitPayload {s : State} (h : s.enc.state ≠ .emitPayload) :
    exec .encEmitData s = .next s :=
  if_neg h

theorem exec_decSeekSkip_of_not {s : State} {b : Byte} (h : s.dec.state ≠ .seekStart ∨ b = 0xAA#8) :
    exec (.decSeekSkip b) s = .next s :=
  onDec_of_not_guard (decide_eq_false fun ⟨hst, hb⟩ => h.elim (fun hne => hne hst) fun heq => hb heq) _ s

theorem exec_decLenOk_of_not {s : State} {b : Byte} (h : s.dec.state ≠ .readLength ∨ b.toNat = 0 ∨ 200 < b.toNat) :
    exec (.decLenOk b) s = .next s := by
  refine onDec_of_not_guard (Bool.eq_false_iff.mpr fun hguard => ?_) _ s
  rw [Bool.and_eq_true, decide_eq_true_iff, lengthLegal_iff] at hguard
  obtain ⟨hst, hlegal⟩ := hguard
  exact h.elim (fun hne => hne hst) fun hb => by omega

theorem exec_decLenBad_of_not {s : State} {b : Byte}
    (h : s.dec.state ≠ .readLength ∨ (1 ≤ b.toNat ∧ b.toNat ≤ 200)) : exec (.decLenBad b) s = .next s := by
  refine onDec_of_not_guard (Bool.eq_false_iff.mpr fun hguard => ?_) _ s
  rw [Bool.and_eq_true, decide_eq_true_iff, Bool.not_eq_true', ← Bool.not_eq_true, lengthLegal_iff] at hguard
  obtain ⟨hst, hillegal⟩ := hguard
  exact h.elim (fun hne => hne hst) hillegal

theorem exec_decEndBad_of_not {s : State} {b : Byte} (h : s.dec.state ≠ .readEnd ∨ b = 0x55#8) :
    exec (.decEndBad b) s = .next s :=
  onDec_of_not_guard (decide_eq_false fun ⟨hst, hb⟩ => h.elim (fun hne => hne hst) fun heq => hb heq) _ s

/-- Settles O30: each guard names the state and tests the byte, and is false. -/
theorem unselectedOperationsDoNothing : Obligations.UnselectedOperationsDoNothing := by
  intro s b
  have emit : ∀ {st : EncState} {x : Byte} {e : Enc}, s.enc.state ≠ st →
      emitOn (decide (s.enc.state = st)) x e s = .next s := fun h => emitOn_of_not_guard (decide_eq_false h) _ _ s
  have dec : ∀ {st : DecState} {d : Dec}, s.dec.state ≠ st → onDec (decide (s.dec.state = st)) d s = .next s :=
    fun h => onDec_of_not_guard (decide_eq_false h) _ s
  exact ⟨emit, emit, exec_encEmitData_of_not_emitPayload, emit, emit, fun h => ⟨dec h, dec h⟩, exec_decSeekSkip_of_not,
    dec, exec_decLenOk_of_not, exec_decLenBad_of_not, fun h => ⟨dec h, dec h⟩, fun h => ⟨dec h, dec h⟩,
    fun h => ⟨dec h, dec h⟩, exec_decEndBad_of_not⟩

end Sys2Proof.Machine
end

section
/-! PROOFS. The step and the agents outside (R8, R220 to R223): what a move's step is where it selects an operation, where it
meets no partner, where it brings nothing; then the read and the transfer. -/

namespace Sys2Proof.Machine

/-! Steps without a transfer. -/

theorem State.takeMove_of_moves {s : State} {m : Move} {ms : List Move} (h : s.moves = m :: ms) :
    s.takeMove m = { s with moves := ms, rxStream := if m = .linkRx then s.rxStream.tail else s.rxStream } := by
  cases m with
  | linkRx => simp only [State.takeMove, h, List.tail_cons, if_true]
  | host _ | linkTx | ticker | reset => exact State.spendMove_of_moves h

theorem step_of_no_moves {s : State} (h : s.moves = []) : step s = .next s := by
  simp only [step, h]

/-- The move brings nothing, or an event that selects no operation. -/
def State.SelectsNothing (s : State) (m : Move) : Prop :=
  s.presented m = none ∨ ∃ ev r, s.presented m = some ev ∧ decode ⟨s.enc.state, s.dec.state, ev⟩ = .reject r

theorem step_of_selectsNothing {s : State} {m : Move} {ms : List Move} (hm : s.moves = m :: ms)
    (h : s.SelectsNothing m) : step s = .next s.spendMove := by
  obtain hev | ⟨ev, r, hev, hr⟩ := h
  · simp only [step, hm, hev]
  · simp only [step, hm, hev, hr]

theorem State.selectsNothing_linkRx_of_nothing_on_offer {s : State} (h : s.rxStream = []) :
    s.SelectsNothing .linkRx :=
  .inl (by rw [State.presented, h])

/-- R186: between attempts neither a byte nor a TimeoutSignal on offer is taken. -/
theorem State.selectsNothing_linkRx_of_not_busy {s : State} (hbusy : s.dec.busy = false) :
    s.SelectsNothing .linkRx := by
  have hst := s.dec.busy_eq_false_iff.mp hbusy
  cases hrx : s.rxStream with
  | nil => exact State.selectsNothing_linkRx_of_nothing_on_offer hrx
  | cons it r =>
    cases it with
    | byte b => exact .inr ⟨.rxTransfer b, _, by rw [State.presented, hrx], (rxRows_eq_nil_of_not_reading hst b).2⟩
    | timeout =>
      have hreject : decodeTimeout s.dec.state = .reject .noReadInProgress := by
        rcases hst with hst | hst <;> rw [hst] <;> rfl
      exact .inr ⟨.timeoutSignal, _, by rw [State.presented, hrx], hreject⟩

/-- Settles O31: the move taken is the statement's record. -/
theorem stepRunsTheDecodedInstruction : Obligations.StepRunsTheDecodedInstruction :=
  fun _ _ _ _ _ hm hev hi => (step_of_op hm hev hi).trans (congrArg _ (State.takeMove_of_moves hm))

/-- Settles O32: neither offer selects an operation, and the move is spent. -/
theorem offersThatMeetNoPartnerAreNotTaken : Obligations.OffersThatMeetNoPartnerAreNotTaken := by
  refine fun s ms => ⟨fun hm hbusy => ?_, fun hm hidle => ?_⟩
  · rw [step_of_selectsNothing hm (State.selectsNothing_linkRx_of_not_busy hbusy), State.spendMove_of_moves hm]
  · rw [step_linkTx_of_idle hm hidle, State.spendMove_of_moves hm]

/-- Settles O33: no move, or a move that presents nothing. -/
theorem waitingChangesNothing : Obligations.WaitingChangesNothing := by
  refine fun s ms => ⟨step_of_no_moves, fun hm hrx => ?_⟩
  rw [step_of_selectsNothing hm (State.selectsNothing_linkRx_of_nothing_on_offer hrx), State.spendMove_of_moves hm]

/-! The read and the transfer. -/

/-- Settles O34: the next state of a read is written out in `step_linkRx`. -/
theorem everyReadConsumesOneItem : Obligations.EveryReadConsumesOneItem :=
  fun _ _ _ _ hm hrx hbusy => ⟨_, step_linkRx hm hrx hbusy, rfl, rfl, rfl, rfl, rfl⟩

theorem State.drawTx_eq (i : Nat) (s : State) : s.drawTx i = { s with txFree := (s.drawTx i).txFree } := by
  unfold State.drawTx
  split <;> rfl

/-- The operation a transfer selects hands the byte `tx_data` shows to the Link, whatever it counts besides (R27, R146 to
R150). -/
theorem exec_of_txData {s : State} {b : Byte} (hb : s.txData = some b) :
    ∃ i n e, decodeTx s.enc.state = .op i ∧
      exec i s = .next ((State.linkWrite b { s with txFree := n }).withEnc e) := by
  cases hst : s.enc.state <;> simp only [State.txData, hst] at hb <;> cases hb
  case emitStart => exact ⟨_, s.txFree, _, rfl, exec_encEmitStart hst⟩
  case emitLen => exact ⟨_, s.txFree, _, rfl, exec_encEmitLen hst⟩
  case emitPayload =>
    have hexec := exec_encEmitData_of_emitPayload hst
    rw [State.drawTx_eq] at hexec
    exact ⟨_, _, _, rfl, hexec⟩
  case emitChecksum => exact ⟨_, s.txFree, _, rfl, exec_encEmitChk hst⟩
  case emitEnd => exact ⟨_, s.txFree, _, rfl, exec_encEmitEnd hst⟩

theorem step_linkTx_of_txData {s : State} {b : Byte} {ms : List Move} (hm : s.moves = .linkTx :: ms)
    (hb : s.txData = some b) :
    ∃ n e, step s = .next ((State.linkWrite b { s with moves := ms, txFree := n }).withEnc e) := by
  obtain ⟨i, n, e, hi, hexec⟩ := exec_of_txData (s := s.spendMove) hb
  refine ⟨n, e, (step_linkTx hm rfl hi).trans ?_⟩
  rw [hexec, State.spendMove_of_moves hm]

theorem State.not_idle_of_txData {s : State} {b : Byte} (hb : s.txData = some b) : s.enc.state ≠ .idle := by
  intro hidle
  rw [State.txData, hidle] at hb
  cases hb

/-- Settles O35: the next state of a transfer is written out in `step_linkTx_of_txData`. -/
theorem everyTransferTakesTxData : Obligations.EveryTransferTakesTxData := by
  intro s ms b hm hb
  obtain ⟨_, hvalid, -⟩ := State.encFlags_of_not_idle (State.not_idle_of_txData hb)
  obtain ⟨n, e, hstep⟩ := step_linkTx_of_txData hm hb
  exact ⟨hvalid, _, hstep, rfl, rfl, rfl, rfl, rfl⟩

end Sys2Proof.Machine
end

section
/-! PROOFS. The units (R20, R254): an operation reads and writes its own unit's part of the state and no other, so it leaves
the rest alone and runs the same whatever the rest is. -/

namespace Sys2Proof.Machine

/-- The state `w` with the part of the unit `u` as in `v`: its registers and buffer, and what only its operations change (the
TX stream, what the host has read, the free bytes drawn). Of these a reset changes the registers and buffers alone. -/
def State.withPart (u : CoreUnit) (v w : State) : State :=
  match u with
  | .crc0 => { w with crc0 := v.crc0, crcSamples := v.crcSamples }
  | .enc => { w with enc := v.enc, txStream := v.txStream, txFree := v.txFree }
  | .dec => { w with dec := v.dec, decSamples := v.decSamples, rxFree := v.rxFree }
  | .all => { w with crc0 := v.crc0, enc := v.enc, dec := v.dec }

theorem State.withPart_self (u : CoreUnit) (s : State) : State.withPart u s s = s := by
  cases u <;> rfl

/-- The parts of two units are disjoint (R3, R20). -/
theorem State.withPart_comm {u v : CoreUnit} (h : u ≠ v) (hu : u ≠ .all) (hv : v ≠ .all) (a b w : State) :
    State.withPart v b (State.withPart u a w) = State.withPart u a (State.withPart v b w) := by
  cases u <;> cases v
  case crc0.crc0 | enc.enc | dec.dec => exact absurd rfl h
  case all.crc0 | all.enc | all.dec | all.all => exact absurd rfl hu
  case crc0.all | enc.all | dec.all => exact absurd rfl hv
  case crc0.enc | crc0.dec | enc.crc0 | enc.dec | dec.crc0 | dec.enc => rfl

theorem State.drawTx_withPart (i : Nat) (s w : State) :
    (State.withPart .enc s w).drawTx i = State.withPart .enc (s.drawTx i) w := by
  show (if (s.txCell? i).isSome then _ else _) = State.withPart .enc (if (s.txCell? i).isSome then _ else _) w
  split <;> rfl

theorem State.drawRx_withPart (i : Nat) (s w : State) :
    (State.withPart .dec s w).drawRx i = State.withPart .dec (s.drawRx i) w := by
  show (if (s.rxCell? i).isSome then _ else _) = State.withPart .dec (if (s.rxCell? i).isSome then _ else _) w
  split <;> rfl

/-- An operation does to its unit's part what it does, whatever the rest of the state is. -/
theorem exec_withPart {i : Instr} {s t : State} (h : exec i s = .next t) (w : State) :
    exec i (State.withPart (unitOf i) s w) = .next (State.withPart (unitOf i) t w) := by
  have enc : ∀ {c : Bool} {e : Enc}, onEnc c e s = .next t →
      onEnc c e (State.withPart .enc s w) = .next (State.withPart .enc t w) := fun {c _} h => by
    cases c <;> (cases h; rfl)
  have emit : ∀ {c : Bool} {b : Byte} {e : Enc}, emitOn c b e s = .next t →
      emitOn c b e (State.withPart .enc s w) = .next (State.withPart .enc t w) := fun {c _ _} h => by
    cases c <;> (cases h; rfl)
  have dec : ∀ {c : Bool} {d : Dec}, onDec c d s = .next t →
      onDec c d (State.withPart .dec s w) = .next (State.withPart .dec t w) := fun {c _} h => by
    cases c <;> (cases h; rfl)
  cases i with
  | crcClr | crcByte b | crcRead | sysReset => cases h; rfl
  | encClear | encPush v | encStart => exact enc h
  | encEmitStart | encEmitLen | encEmitChk | encEmitEnd => exact emit h
  | encEmitData =>
    by_cases hst : s.enc.state = .emitPayload
    · have hst' : (State.withPart .enc s w).enc.state = .emitPayload := hst
      rw [exec_encEmitData_of_emitPayload hst] at h
      refine (exec_encEmitData_of_emitPayload hst').trans ?_
      rw [State.drawTx_withPart]
      cases h
      rfl
    · cases (exec_encEmitData_of_not_emitPayload hst).symm.trans h
      exact exec_encEmitData_of_not_emitPayload (s := State.withPart .enc s w) hst
  | decStart | decSeekHit | decSeekSkip b | decSeekTmo | decLenOk b | decLenBad b | decLenTmo | decDataByte b
  | decDataTmo | decChkByte b | decChkTmo | decEndOk | decEndBad b | decEndTmo | decTick | decSetTmo t => exact dec h
  | decResult =>
    cases hbusy : s.dec.busy with
    | true => cases (exec_decResult_of_busy hbusy).symm.trans h
    | false =>
      cases (exec_decResult_of_not_busy hbusy).symm.trans h
      exact exec_decResult_of_not_busy (s := State.withPart .dec s w) hbusy
  | decRdbuf n =>
    by_cases hst : s.dec.state = .done
    · by_cases hn : n.toNat < s.dec.rxCnt.toNat ∧ n.toNat < 200
      · cases (exec_decRdbuf_of_done hst hn).symm.trans h
        refine (exec_decRdbuf_of_done (s := State.withPart .dec s w) hst hn).trans ?_
        rw [State.drawRx_withPart]
        rfl
      · cases (exec_decRdbuf_of_not_payload hst hn).symm.trans h
    · cases (exec_decRdbuf_of_not_done n hst).symm.trans h

/-- An operation changes nothing but its unit's part. -/
theorem exec_frame {i : Instr} {s t : State} (h : exec i s = .next t) : t = State.withPart (unitOf i) t s := by
  have hlocal := exec_withPart h s
  rw [State.withPart_self] at hlocal
  exact Host.Outcome.next.inj (h.symm.trans hlocal)

/-- Settles O40: the fields outside the unit's part are those of the state before. -/
theorem unitsWriteOnlyTheirOwnState : Obligations.UnitsWriteOnlyTheirOwnState := by
  intro i s t h
  rw [exec_frame h]
  cases unitOf i with
  | crc0 => exact ⟨fun hne => absurd rfl hne, fun _ _ => rfl, fun _ => ⟨rfl, rfl⟩, fun _ _ => rfl, fun _ => ⟨rfl, rfl⟩,
      rfl, rfl⟩
  | enc => exact ⟨fun _ _ => ⟨rfl, rfl⟩, fun hne => absurd rfl hne, fun hne => absurd rfl hne, fun _ _ => rfl,
      fun _ => ⟨rfl, rfl⟩, rfl, rfl⟩
  | dec => exact ⟨fun _ _ => ⟨rfl, rfl⟩, fun _ _ => rfl, fun _ => ⟨rfl, rfl⟩, fun hne => absurd rfl hne,
      fun hne => absurd rfl hne, rfl, rfl⟩
  | all => exact ⟨fun _ hne => absurd rfl hne, fun _ hne => absurd rfl hne, fun _ => ⟨rfl, rfl⟩,
      fun _ hne => absurd rfl hne, fun _ => ⟨rfl, rfl⟩, rfl, rfl⟩

/-- After an operation of another unit, an operation does to its own part what it would have done before. -/
theorem exec_after_other_unit {i j : Instr} {s a b : State} (h : unitOf i ≠ unitOf j) (hi : unitOf i ≠ .all)
    (hj : unitOf j ≠ .all) (ha : exec i s = .next a) (hb : exec j s = .next b) :
    exec j a = .next (State.withPart (unitOf j) b (State.withPart (unitOf i) a s)) := by
  have hsame : State.withPart (unitOf j) s (State.withPart (unitOf i) a s) = a := by
    rw [State.withPart_comm h hi hj, State.withPart_self, ← exec_frame ha]
  calc exec j a
    _ = exec j (State.withPart (unitOf j) s (State.withPart (unitOf i) a s)) := by rw [hsame]
    _ = _ := exec_withPart hb _

/-- Settles O41: in either order both parts are written, and they are disjoint. -/
theorem operationsOfDifferentUnitsCommute : Obligations.OperationsOfDifferentUnitsCommute := by
  intro i j s a b h hi hj ha hb
  refine ⟨State.withPart (unitOf j) b (State.withPart (unitOf i) a s), ?_, ?_⟩
  · simp only [execThen, ha]
    exact exec_after_other_unit h hi hj ha hb
  · simp only [execThen, hb]
    rw [State.withPart_comm h hi hj]
    exact exec_after_other_unit h.symm hj hi hb ha

end Sys2Proof.Machine
end

section
/-! PROOFS. What stops (R240, R262): the operations that answer no next state, and the moves that select them. -/

namespace Sys2Proof.Machine

/-! The event an operation is selected by names the agent's move. -/

/-- The move of which the event comes (R9). -/
def Event.mover : Event → Move
  | .host c => .host c
  | .txTransfer => .linkTx
  | .rxTransfer _ | .timeoutSignal => .linkRx
  | .tick => .ticker
  | .rst => .reset

theorem State.move_of_presented {s : State} {m : Move} {ev : Event} (h : s.presented m = some ev) :
    m = Event.mover ev := by
  cases m with
  | host _ | linkTx | ticker | reset => cases h; rfl
  | linkRx =>
    rw [State.presented] at h
    split at h <;> cases h <;> rfl

/-- The selection's event is the operation's own (R98). -/
theorem event_of_decode {e : EncState} {d : DecState} {ev : Event} {i : Instr} (h : decode ⟨e, d, ev⟩ = .op i) :
    (encode e d i).event = ev :=
  congrArg Selection.event (selects_of_decode h).2

/-! The operations that stop. -/

/-- The operation is a read of a result outside its guard (R189, R190). -/
def ReadsOutsideGuard (d : Dec) (i : Instr) : Prop :=
  (i = .decResult ∧ d.busy = true) ∨
  ∃ n : Byte, i = .decRdbuf n ∧ (d.state ≠ .done ∨ d.rxCnt.toNat ≤ n.toNat ∨ 200 ≤ n.toNat)

theorem exec_next_or_readsOutsideGuard (i : Instr) (s : State) :
    (∃ t, exec i s = .next t) ∨ ReadsOutsideGuard s.dec i := by
  cases i with
  | crcClr | crcByte b | crcRead | encClear | encPush v | encStart | encEmitStart | encEmitLen | encEmitChk | encEmitEnd
  | decStart | decSeekHit | decSeekSkip b | decSeekTmo | decLenOk b | decLenBad b | decLenTmo | decDataByte b
  | decDataTmo | decChkByte b | decChkTmo | decEndOk | decEndBad b | decEndTmo | decTick | decSetTmo t | sysReset =>
    exact .inl ⟨_, rfl⟩
  | encEmitData =>
    by_cases hst : s.enc.state = .emitPayload
    · exact .inl ⟨_, exec_encEmitData_of_emitPayload hst⟩
    · exact .inl ⟨_, exec_encEmitData_of_not_emitPayload hst⟩
  | decResult =>
    cases hbusy : s.dec.busy with
    | true => exact .inr (.inl ⟨rfl, hbusy⟩)
    | false => exact .inl ⟨_, exec_decResult_of_not_busy hbusy⟩
  | decRdbuf n =>
    by_cases hguard : s.dec.state = .done ∧ n.toNat < s.dec.rxCnt.toNat ∧ n.toNat < 200
    · exact .inl ⟨_, exec_decRdbuf_of_done hguard.1 hguard.2⟩
    · refine .inr (.inr ⟨n, rfl, ?_⟩)
      simpa only [not_and_or, not_lt] using hguard

/-- A step stops only on a host's move that reads a result outside its guard. -/
theorem step_next_or_readsOutsideGuard (s : State) :
    (∃ t, step s = .next t) ∨
    ∃ c ms, s.moves = .host c :: ms ∧ ReadsOutsideGuard s.dec (decodeHost c) := by
  cases hm : s.moves with
  | nil => exact .inl ⟨_, step_of_no_moves hm⟩
  | cons m ms =>
    cases hev : s.presented m with
    | none => exact .inl ⟨_, step_of_selectsNothing hm (.inl hev)⟩
    | some ev =>
      cases hi : decode ⟨s.enc.state, s.dec.state, ev⟩ with
      | reject r => exact .inl ⟨_, step_of_selectsNothing hm (.inr ⟨ev, r, hev, hi⟩)⟩
      | op i =>
        rw [step_of_op hm hev hi]
        refine (exec_next_or_readsOutsideGuard i (s.takeMove m)).imp_right fun hread => ?_
        rw [State.takeMove_dec] at hread
        obtain ⟨c, rfl, rfl⟩ : ∃ c, ev = .host c ∧ i = decodeHost c := by
          rw [← event_of_decode hi]
          obtain ⟨rfl, -⟩ | ⟨n, rfl, -⟩ := hread
          · exact ⟨.decResult, rfl, rfl⟩
          · exact ⟨.decRdbuf n, rfl, rfl⟩
        exact ⟨c, ms, by rw [State.move_of_presented hev, Event.mover], hread⟩

/-- Settles O44: a host's move that reads a result outside its guard is one of the two moves the statement names. -/
theorem onlyReadsOfResultsStop : Obligations.OnlyReadsOfResultsStop := by
  refine fun s => ⟨fun i => exec_next_or_readsOutsideGuard i s, ?_⟩
  refine (step_next_or_readsOutsideGuard s).imp_right ?_
  rintro ⟨c, ms, hm, hread⟩
  rw [hm, List.head?_cons]
  cases c with
  | decResult => exact .inl ⟨rfl, hread.elim And.right fun ⟨_, hn, _⟩ => nomatch hn⟩
  | decRdbuf n =>
    refine .inr ⟨n, rfl, ?_⟩
    obtain ⟨hn, -⟩ | ⟨_, hn, hguard⟩ := hread
    · cases hn
    · cases hn
      exact hguard
  | crcClr | crcByte | crcRead | encClear | encPush | encStart | decStart | decSetTmo =>
    obtain ⟨hn, -⟩ | ⟨_, hn, -⟩ := hread <;> cases hn

end Sys2Proof.Machine
end

section
/-! PROOFS. What every step keeps (R74, R185, R191, R244, R73): each said of the changes an operation can make to a unit
(`EncChange`, `DecChange`), then of the step, whose move the operation names. -/

namespace Sys2Proof.Machine

/-! The step, by the change it makes and the move that made it. -/

/-- The move that selects an operation (R98). -/
def Instr.mover (i : Instr) : Move := Event.mover (encode .idle .idle i).event

theorem mover_event_encode (e : EncState) (d : DecState) (i : Instr) :
    Event.mover (encode e d i).event = Instr.mover i := by
  cases i <;> rfl

/-- A step leaves both units and `crc0` alone, or runs an operation on its mover's move. -/
theorem step_cases_mover {s t : State} (h : step s = .next t) :
    (t.enc = s.enc ∧ t.dec = s.dec) ∨
    ∃ i, s.moves.head? = some (Instr.mover i) ∧ exec i (s.takeMove (Instr.mover i)) = .next t := by
  rcases step_cases h with ⟨-, rfl⟩ | ⟨_, _, -, rfl⟩ | ⟨m, _, ev, i, hm, hev, hi, hx⟩
  · exact .inl ⟨rfl, rfl⟩
  · exact .inl ⟨rfl, rfl⟩
  · obtain rfl : m = Instr.mover i := by
      rw [State.move_of_presented hev, ← event_of_decode hi, mover_event_encode]
    exact .inr ⟨i, by rw [hm, List.head?_cons], hx⟩

theorem step_enc_cases_mover {s t : State} (h : step s = .next t) :
    t.enc = s.enc ∨ ∃ i out, s.moves.head? = some (Instr.mover i) ∧ EncChange i s.enc t.enc out := by
  rcases step_cases_mover h with ⟨hsame, -⟩ | ⟨i, hhead, hx⟩
  · exact .inl hsame
  · rcases exec_enc_cases hx with ⟨hsame, -⟩ | ⟨out, hchange, -⟩
    · exact .inl (hsame.trans (State.takeMove_enc _ s))
    · rw [State.takeMove_enc] at hchange
      exact .inr ⟨i, out, hhead, hchange⟩

theorem step_dec_cases_mover {s t : State} (h : step s = .next t) :
    t.dec = s.dec ∨ ∃ i, s.moves.head? = some (Instr.mover i) ∧ exec i (s.takeMove (Instr.mover i)) = .next t ∧
      DecChange i s.dec t.dec := by
  rcases step_cases_mover h with ⟨-, hsame⟩ | ⟨i, hhead, hx⟩
  · exact .inl hsame
  · rcases exec_dec_cases hx with hsame | hchange
    · exact .inl (hsame.trans (State.takeMove_dec _ s))
    · rw [State.takeMove_dec] at hchange
      exact .inr ⟨i, hhead, hx, hchange⟩

/-! The payload while a frame is in progress (R44 f, R74). -/

theorem Enc.afterLen_not_idle (e : Enc) : e.afterLen.state ≠ .idle := by
  rw [Enc.afterLen_state]
  split <;> nofun

theorem Enc.afterData_not_idle (b : Byte) (e : Enc) : (e.afterData b).state ≠ .idle := by
  rw [Enc.afterData_state]
  split <;> nofun

/-- An encoder that is not idle keeps its payload, but for the end of the frame and the reset. -/
theorem EncChange.frozen {i : Instr} {e e' : Enc} {out : List Byte} (h : EncChange i e e' out) (hbusy : e.state ≠ .idle) :
    (e'.txCnt = e.txCnt ∧ e'.txbuf = e.txbuf ∧ e'.state ≠ .idle) ∨
    (i = .encEmitEnd ∧ e.state = .emitEnd ∧ e'.state = .idle ∧ e'.txCnt = 0x00#8 ∧ e'.txbuf = e.txbuf) ∨
    (i = .sysReset ∧ e' = Enc.reset) := by
  cases h with
  | clear hst | push hst | start hst => exact absurd hst hbusy
  | emitStart | emitChk => exact .inl ⟨rfl, rfl, nofun⟩
  | emitLen => exact .inl ⟨rfl, rfl, e.afterLen_not_idle⟩
  | emitData => exact .inl ⟨rfl, rfl, e.afterData_not_idle _⟩
  | emitEnd hst => exact .inr (.inl ⟨rfl, hst, rfl, rfl, rfl⟩)
  | reset => exact .inr (.inr ⟨rfl, rfl⟩)

/-- Settles O45: the end of the frame is LINK_TX's move, the reset the reset's. -/
theorem payloadIsFrozenWhileEmitting : Obligations.PayloadIsFrozenWhileEmitting := by
  intro s t h hbusy
  rcases step_enc_cases_mover h with hsame | ⟨i, _, hhead, hchange⟩
  · rw [hsame]
    exact .inl ⟨rfl, rfl, hbusy⟩
  · rcases hchange.frozen hbusy with hkept | ⟨rfl, hend⟩ | ⟨rfl, hreset⟩
    · exact .inl hkept
    · exact .inr (.inl ⟨hhead, hend⟩)
    · exact .inr (.inr ⟨hhead, hreset⟩)

/-! The decoder's edges (R191) and the status that none of them writes (R185). -/

/-- The TimeoutSignal's edges (R174 to R184). -/
theorem decEdge_timeoutSignal {a : DecState} (hidle : a ≠ .idle) (hdone : a ≠ .done) (before : DecStatus) :
    decEdge a .done before (if a = .readEnd then .desync else .timeout) = true := by
  cases a with
  | idle => exact absurd rfl hidle
  | done => exact absurd rfl hdone
  | seekStart | readLength | readPayload | readChecksum | readEnd => rfl

theorem decEdge_verdict (d : Dec) : decEdge .readEnd .done d.status d.verdict = true := by
  rw [d.verdict_eq]
  split <;> rfl

/-- From any state the reset leads back to `Idle`. -/
theorem decEdge_reset (a : DecState) (before : DecStatus) : decEdge a .idle before .noOutcome = true := by
  cases a <;> rfl

/-- A payload byte's two edges keep the status. -/
theorem decEdge_takeData (d : Dec) (b : Byte) : decEdge .readPayload (d.takeData b).state d.status d.status = true := by
  rw [Dec.takeData_state]
  split <;> exact beq_self_eq_true _

theorem DecChange.edge {i : Instr} {d d' : Dec} (h : DecChange i d d') :
    (d'.state = d.state ∧ d'.status = d.status) ∨ decEdge d.state d'.state d.status d'.status = true := by
  cases h with
  | seekSkip | tickCounts | setTimeout => exact .inl ⟨rfl, rfl⟩
  | start hbusy =>
    rcases d.busy_eq_false_iff.mp hbusy with hst | hst <;> (rw [hst]; exact .inr rfl)
  | seekHit hst | lenOk hst | chkByte hst =>
    rw [hst]
    exact .inr (beq_self_eq_true _)
  | dataByte hst =>
    rw [hst]
    exact .inr (decEdge_takeData d _)
  | seekTmo hst | lenBad hst | lenTmo hst | dataTmo hst | chkTmo hst | endBad hst | endTmo hst =>
    rw [hst]
    exact .inr rfl
  | endOk hst =>
    rw [hst]
    exact .inr (decEdge_verdict d)
  | tickFires hbusy =>
    obtain ⟨hidle, hdone⟩ := d.busy_iff_ne.mp hbusy
    exact .inr (decEdge_timeoutSignal hidle hdone d.status)
  | reset => exact .inr (decEdge_reset d.state d.status)

/-- Settles O46: every change of the decoder is along an edge. -/
theorem decoderMovesOnlyAlongItsEdges : Obligations.DecoderMovesOnlyAlongItsEdges := by
  intro s t h
  rcases step_dec_cases h with hsame | ⟨_, hchange⟩
  · rw [hsame]
    exact .inl ⟨rfl, rfl⟩
  · exact hchange.edge

/-- No edge of the table writes `RangeError`. -/
theorem ne_rangeError_of_decEdge {a b : DecState} {before after : DecStatus} (h : decEdge a b before after = true)
    (hbefore : before ≠ .rangeError) : after ≠ .rangeError := by
  rintro rfl
  have hkept : (DecStatus.rangeError == before) = false := beq_false_of_ne hbefore.symm
  simp only [decEdge, hkept] at h
  split at h <;> cases h

/-- Settles O49: the status stays, or an edge of the table writes it. -/
theorem rangeErrorIsNeverProduced : Obligations.RangeErrorIsNeverProduced := by
  intro s t h hbefore
  rcases decoderMovesOnlyAlongItsEdges s t h with ⟨-, hsame⟩ | hedge
  · rwa [hsame]
  · exact ne_rangeError_of_decEdge hedge hbefore

/-! The terminal outcomes (R244, R73). -/

/-- What ends an attempt is an operation of the decoder, and writes the status and, of a rejected length, `rx_len`. -/
theorem DecChange.terminal {i : Instr} {d d' : Dec} (h : DecChange i d d') (hbusy : d.busy = true)
    (hdone : d'.state = .done) :
    unitOf i = .dec ∧ d' = { d with state := .done, status := d'.status, rxLen := d'.rxLen } ∧
      (d'.rxLen = d.rxLen ∨ (d.state = .readLength ∧ d'.status = .desync)) := by
  have hreading := (d.busy_iff_ne.mp hbusy).2
  cases h with
  | start hidle | setTimeout hidle => cases hidle.symm.trans hbusy
  | seekSkip | tickCounts => exact absurd hdone hreading
  | seekHit | lenOk | chkByte | reset => cases hdone
  | dataByte =>
    rw [Dec.takeData_state] at hdone
    split at hdone <;> cases hdone
  | lenBad hst => exact ⟨rfl, rfl, .inr ⟨hst, rfl⟩⟩
  | seekTmo | lenTmo | dataTmo | chkTmo | endOk | endBad | endTmo | tickFires => exact ⟨rfl, rfl, .inl rfl⟩

/-- Settles O47: the operation is the decoder's, so the other units and the TX stream do not move; the flags are those of
`Done`. -/
theorem terminalEntryKeepsTheRegisters : Obligations.TerminalEntryKeepsTheRegisters := by
  intro s t h hbusy hdone
  rcases step_dec_cases_mover h with hsame | ⟨i, -, hx, hchange⟩
  · exact absurd (hsame ▸ hdone) (s.dec.busy_iff_ne.mp hbusy).2
  · obtain ⟨hunit, hkept, hlen⟩ := hchange.terminal hbusy hdone
    obtain ⟨hnotBusy, hisDone⟩ := State.decFlags_of_done hdone
    have hframe := exec_frame hx
    rw [hunit] at hframe
    refine ⟨hkept, hlen, hnotBusy, hnotBusy, hisDone, ?_, ?_, ?_⟩ <;> (rw [hframe]; simp [State.withPart])

/-- In `Done` only the configuration changes, but for the next attempt and the reset. -/
theorem DecChange.of_done {i : Instr} {d d' : Dec} (h : DecChange i d d') (hdone : d.state = .done) :
    d' = { d with tmoCfg := d'.tmoCfg } ∨ (i = .decStart ∧ d'.state = .seekStart) ∨
      (i = .sysReset ∧ d' = Dec.reset) := by
  cases h with
  | start => exact .inr (.inl ⟨rfl, rfl⟩)
  | setTimeout => exact .inl rfl
  | reset => exact .inr (.inr ⟨rfl, rfl⟩)
  | tickFires hbusy | tickCounts hbusy => exact absurd hdone (d.busy_iff_ne.mp hbusy).2
  | seekHit hst | seekSkip hst | seekTmo hst | lenOk hst | lenBad hst | lenTmo hst | dataByte hst | dataTmo hst
  | chkByte hst | chkTmo hst | endOk hst | endBad hst | endTmo hst => cases hst.symm.trans hdone

/-- Settles O48: the next attempt is the host's move, the reset the reset's. -/
theorem outcomeIsStableInDone : Obligations.OutcomeIsStableInDone := by
  intro s t h hdone
  rcases step_dec_cases_mover h with hsame | ⟨i, hhead, -, hchange⟩
  · rw [hsame]
    exact .inl rfl
  · rcases hchange.of_done hdone with hkept | ⟨rfl, hstart⟩ | ⟨rfl, hreset⟩
    · exact .inl hkept
    · exact .inr (.inl ⟨hhead, hstart⟩)
    · exact .inr (.inr ⟨hhead, hreset⟩)

end Sys2Proof.Machine
end

section
/-! PROOFS. `ENCODE` on the machine (R106): its moves are the encoder's commands and transfers, which always go on, do nothing
outside the encoder and hand every byte sent to the Link; that the bytes are the frame is R151's statement. -/

namespace Sys2Proof.Machine

/-! One move. -/

theorem onEnc_eq (c : Bool) (e : Enc) (s : State) : onEnc c e s = .next (s.withEnc (if c then e else s.enc)) := by
  cases c <;> rfl

/-- A command to the encoder writes the encoder and nothing else, whatever its guard. -/
theorem step_encCommand {s : State} {m : Move} {ms : List Move} (hm : s.moves = m :: ms) (hcmd : isEncCommand m = true) :
    ∃ e, step s = .next (State.withEnc e { s with moves := ms }) := by
  rw [← State.spendMove_of_moves hm]
  obtain rfl | ⟨v, rfl⟩ | rfl := encCommand_cases hcmd <;> exact ⟨_, (step_host hm).trans (onEnc_eq _ _ _)⟩

theorem State.linkEvent_host {s : State} {c : HostCmd} {ms : List Move} (hm : s.moves = .host c :: ms) :
    s.linkEvent = none := by
  simp only [State.linkEvent, hm, State.presented, decode]

theorem State.linkEvent_of_selectsNothing {s : State} {m : Move} {ms : List Move} (hm : s.moves = m :: ms)
    (h : s.SelectsNothing m) : s.linkEvent = none := by
  obtain hev | ⟨ev, r, hev, hr⟩ := h
  · simp only [State.linkEvent, hm, hev]
  · simp only [State.linkEvent, hm, hev, hr]

theorem State.selectsNothing_linkTx_of_idle {s : State} (h : s.enc.state = .idle) : s.SelectsNothing .linkTx :=
  .inr ⟨.txTransfer, .txNotValid, rfl, congrArg decodeTx h⟩

theorem State.linkEvent_linkTx_of_txData {s : State} {b : Byte} {ms : List Move} (hm : s.moves = .linkTx :: ms)
    (hb : s.txData = some b) : s.linkEvent = some (.taken b) := by
  obtain ⟨i, -, -, hi, -⟩ := exec_of_txData hb
  simp only [State.linkEvent, hm, State.presented, decode, hi, hb, Option.map_some]

/-- R27: an emitting state shows a byte. -/
theorem State.exists_txData_of_not_idle {s : State} (h : s.enc.state ≠ .idle) : ∃ b, s.txData = some b := by
  unfold State.txData
  cases hst : s.enc.state with
  | idle => exact absurd hst h
  | emitStart | emitLen | emitPayload | emitChecksum | emitEnd => exact ⟨_, rfl⟩

/-- What `t` keeps of `s` where only the encoder acts, and the bytes `out` that the Link takes meanwhile. -/
structure OnlySends (out : List Byte) (s t : State) : Prop where
  txStream : t.txStream = s.txStream ++ out
  dec : t.dec = s.dec
  crc0 : t.crc0 = s.crc0
  rxStream : t.rxStream = s.rxStream

/-- A command to the encoder or a transfer goes on, and the Link takes what is sent. -/
theorem step_of_encMove {s : State} {m : Move} {ms : List Move} (hm : s.moves = m :: ms)
    (h : isEncCommand m = true ∨ m = .linkTx) :
    ∃ t out, step s = .next t ∧ s.linkEvent.toList = out.map .taken ∧ t.moves = ms ∧ OnlySends out s t := by
  have silent {t : State} (htx : t.txStream = s.txStream) : t.txStream = s.txStream ++ [] := by
    rw [htx, List.append_nil]
  obtain hcmd | rfl := h
  · obtain ⟨e, hstep⟩ := step_encCommand hm hcmd
    have hevent : s.linkEvent = none := by
      obtain rfl | ⟨v, rfl⟩ | rfl := encCommand_cases hcmd <;> exact State.linkEvent_host hm
    exact ⟨_, [], hstep, by rw [hevent]; rfl, rfl, silent rfl, rfl, rfl, rfl⟩
  · by_cases hidle : s.enc.state = .idle
    · have hspent : s.spendMove.moves = ms := by rw [State.spendMove_moves, hm, List.tail_cons]
      have hevent := State.linkEvent_of_selectsNothing hm (State.selectsNothing_linkTx_of_idle hidle)
      exact ⟨_, [], step_linkTx_of_idle hm hidle, by rw [hevent]; rfl, hspent, silent rfl, rfl, rfl, rfl⟩
    · obtain ⟨b, hb⟩ := State.exists_txData_of_not_idle hidle
      obtain ⟨n, e, hstep⟩ := step_linkTx_of_txData hm hb
      exact ⟨_, [b], hstep, by rw [State.linkEvent_linkTx_of_txData hm hb]; rfl, rfl, rfl, rfl, rfl, rfl⟩

/-! The run. -/

theorem run_of_encMoves {l rest : List Move} {s : State} (hm : s.moves = l ++ rest)
    (h : ∀ m ∈ l, isEncCommand m = true ∨ m = .linkTx) :
    ∃ t out, run l.length s = .next t ∧ linkEvents l.length s = out.map .taken ∧ OnlySends out s t := by
  induction l generalizing s with
  | nil => exact ⟨s, [], rfl, rfl, (List.append_nil _).symm, rfl, rfl, rfl⟩
  | cons m l ih =>
    obtain ⟨hfirst, hothers⟩ := List.forall_mem_cons.mp h
    obtain ⟨u, out, hstep, hevent, hmoves, hsent⟩ := step_of_encMove hm hfirst
    obtain ⟨t, out', hrun, hevents, hsent'⟩ := ih hmoves hothers
    refine ⟨t, out ++ out', (run_succ hstep).trans hrun, ?_, ?_, hsent'.dec.trans hsent.dec,
      hsent'.crc0.trans hsent.crc0, hsent'.rxStream.trans hsent.rxStream⟩
    · rw [List.length_cons, linkEvents_succ hstep, hevent, hevents, List.map_append]
    · rw [hsent'.txStream, hsent.txStream, List.append_assoc]

theorem encMoves_of_encode {vs : List PushValue} {n : Nat} :
    ∀ m ∈ loadMoves vs ++ List.replicate n .linkTx, isEncCommand m = true ∨ m = .linkTx := by
  intro m hm
  simp only [loadMoves, List.mem_append, List.mem_cons, List.mem_map, List.not_mem_nil, or_false,
    List.mem_replicate] at hm
  obtain ((rfl | ⟨v, -, rfl⟩) | rfl) | ⟨-, rfl⟩ := hm
  · exact .inl rfl
  · exact .inl rfl
  · exact .inl rfl
  · exact .inr rfl

/-- The host's part of `ENCODE` up to `ENC.START`. -/
def clearAndPushMoves (vs : List PushValue) : List Move :=
  .host .encClear :: vs.map fun v => .host (.encPush v)

theorem loadMoves_eq (vs : List PushValue) : loadMoves vs = clearAndPushMoves vs ++ [.host .encStart] := rfl

theorem clearAndPushMoves_length (vs : List PushValue) : (clearAndPushMoves vs).length = vs.length + 1 := by
  simp [clearAndPushMoves]

theorem filter_clearAndPushMoves (vs : List PushValue) :
    (clearAndPushMoves vs).filter isEncCommand = clearAndPushMoves vs := by
  refine List.filter_eq_self.mpr fun m hm => ?_
  obtain rfl | hm := List.mem_cons.mp hm
  · rfl
  · obtain ⟨v, -, rfl⟩ := List.mem_map.mp hm
    rfl

/-- R151 for `ENCODE` alone: with no other move between, and none after it. -/
theorem txStream_of_run_encode {vs : List PushValue} {rest : List Move} {s t : State} (hlen : vs.length ≤ 255)
    (hidle : s.enc.state = .idle) (hm : s.moves = loadMoves vs ++ List.replicate (vs.length + 4) .linkTx ++ rest)
    (hrun : run (2 * vs.length + 6) s = .next t) :
    t.txStream = s.txStream ++ frame (vs.map fun v => clamp (sext v)) ∧
      t.enc.state = .idle ∧ t.enc.txCnt = 0x00#8 ∧ t.moves = rest := by
  have hphases : s.moves = clearAndPushMoves vs ++
      .host .encStart :: (List.replicate (vs.length + 3) .linkTx ++ .linkTx :: ([] ++ rest)) := by
    rw [hm, loadMoves_eq, List.replicate_succ']
    simp
  have hsteps : 2 * vs.length + 6 =
      (clearAndPushMoves vs).length + (List.replicate (vs.length + 3) Move.linkTx).length + 0 + 2 := by
    rw [clearAndPushMoves_length, List.length_replicate]
    omega
  have hreset : .reset ∉ clearAndPushMoves vs ++ List.replicate (vs.length + 3) .linkTx ++ [] := by
    simp [clearAndPushMoves]
  rw [hsteps] at hrun
  exact (encoderEmitsTheFrameWhateverElseHappens s t vs _ _ [] rest hlen hidle hphases hreset
    (filter_clearAndPushMoves vs) List.count_replicate_self rfl hrun).2

/-- `ENCODE` goes on to its end, and the Link takes exactly the frame. -/
theorem run_of_encodeMoves {vs : List PushValue} {rest : List Move} {s : State} (hlen : vs.length ≤ 255)
    (hidle : s.enc.state = .idle) (hm : s.moves = loadMoves vs ++ List.replicate (vs.length + 4) .linkTx ++ rest) :
    ∃ t, run (2 * vs.length + 6) s = .next t ∧
      linkEvents (2 * vs.length + 6) s = (frame (vs.map fun v => clamp (sext v))).map .taken ∧
      OnlySends (frame (vs.map fun v => clamp (sext v))) s t ∧
      t.enc.state = .idle ∧ t.enc.txCnt = 0x00#8 ∧ t.moves = rest := by
  obtain ⟨t, out, hrun, hevents, hsent⟩ := run_of_encMoves hm encMoves_of_encode
  have hsteps : (loadMoves vs ++ List.replicate (vs.length + 4) Move.linkTx).length = 2 * vs.length + 6 := by
    rw [loadMoves_eq, List.length_append, List.length_append, clearAndPushMoves_length, List.length_replicate,
      List.length_singleton]
    omega
  rw [hsteps] at hrun hevents
  obtain ⟨htx, hend⟩ := txStream_of_run_encode hlen hidle hm hrun
  obtain rfl := List.append_cancel_left (hsent.txStream.symm.trans htx)
  exact ⟨t, hrun, hevents, hsent, hend⟩

/-- Settles O50: the run goes on to its end, where R151's statement says what the TX stream is. -/
theorem encodeRunEmitsTheFrame : Obligations.EncodeRunEmitsTheFrame := by
  intro s vs rest hlen hidle hm
  obtain ⟨t, hrun, -, hsent, hst, hcnt, hmoves⟩ := run_of_encodeMoves hlen hidle hm
  refine ⟨t, hrun, ?_, hsent.txStream, hst, hcnt, hmoves, hsent.dec, hsent.crc0, hsent.rxStream⟩
  rw [encodeFrame_map_sext hlen, hsent.txStream, List.drop_left]

end Sys2Proof.Machine
end

section
/-! PROOFS. The function of R192 on frames (R193, R256) and its bounds (R191, R279): one lemma for each of its states, with the
items to come left open, and each statement the states put together. -/

namespace Sys2Proof.Machine

/-! Each state on the bytes of its place. -/

section
variable {p : List Byte} {st : DecStatus} {k : Nat}

/-- R279: noise is consumed and leaves no trace, and the search goes on. -/
theorem attempt_noise {noise : List Byte} (hnoise : 0xAA#8 ∉ noise) {r : List LinkItem}
    (h : attempt r = some ⟨p, st, k⟩) :
    attempt (noise.map .byte ++ r) = some ⟨p, st, noise.length + k⟩ := by
  induction noise with
  | nil => rw [List.map_nil, List.nil_append, h, List.length_nil, Nat.zero_add]
  | cons b noise ih =>
    rw [List.mem_cons, not_or] at hnoise
    obtain ⟨hb, hnoise⟩ := hnoise
    rw [List.map_cons, List.cons_append, attempt, if_neg (Ne.symm hb), ih hnoise, Option.map_some, AttemptResult.more,
      List.length_cons, Nat.add_right_comm]

/-- The payload bytes to come are consumed and join those collected. -/
theorem attemptData_bytes {l : Byte} {c q : List Byte} {r : List LinkItem}
    (h : attemptChk l (q ++ c) r = some ⟨p, st, k⟩) :
    attemptData l c.length q (c.map .byte ++ r) = some ⟨p, st, c.length + k⟩ := by
  induction c generalizing q with
  | nil =>
    rw [List.append_nil] at h
    rw [List.map_nil, List.nil_append, List.length_nil, attemptData, h, Nat.zero_add]
  | cons b c ih =>
    rw [List.append_cons] at h
    rw [List.map_cons, List.cons_append, List.length_cons, attemptData, ih h, Option.map_some, AttemptResult.more,
      Nat.add_right_comm]

/-- The start marker, a legal length and as many payload bytes: what follows decides. -/
theorem attempt_of_payload {c : List Byte} {n : Byte} (hmin : 1 ≤ c.length) (hmax : c.length ≤ 200)
    (hn : n.toNat = c.length) {r : List LinkItem} (h : attemptChk n c r = some ⟨p, st, k⟩) :
    attempt ((0xAA#8 :: n :: c).map .byte ++ r) = some ⟨p, st, c.length + 2 + k⟩ := by
  have hlegal : lengthLegal n = true := (lengthLegal_iff n).mpr (by omega)
  have hdata : attemptData n n.toNat [] (c.map .byte ++ r) = some ⟨p, st, c.length + k⟩ := by
    rw [hn]
    exact attemptData_bytes h
  simp only [List.map_cons, List.cons_append, attempt, attemptLen, if_true, if_pos hlegal, hdata, Option.map_some,
    AttemptResult.more]
  congr 2
  omega

/-- The checksum byte and the end marker, whatever the checksum byte is: a wrong one is a mismatch (R182). -/
theorem attemptChk_endMarker (l : Byte) (q : List Byte) (x : Byte) (r : List LinkItem) :
    attemptChk l q (.byte x :: .byte Config.endMarker :: r) =
      some ⟨q, if crc8 (l :: q) = x then .success else .crcMismatch, 2⟩ := by
  rw [attemptChk, attemptEnd_byte, if_pos rfl]
  rfl

/-- The checksum byte and another byte than the end marker (R183). -/
theorem attemptChk_other (l : Byte) (q : List Byte) (x : Byte) {y : Byte} (hy : y ≠ Config.endMarker)
    (r : List LinkItem) : attemptChk l q (.byte x :: .byte y :: r) = some ⟨q, .desync, 2⟩ := by
  rw [attemptChk, attemptEnd_byte, if_neg hy]
  rfl

/-- The checksum byte and no end marker in time (R184). -/
theorem attemptChk_timeout (l : Byte) (q : List Byte) (x : Byte) (r : List LinkItem) :
    attemptChk l q (.byte x :: .timeout :: r) = some ⟨q, .desync, 2⟩ := rfl

end

/-! Frames (R193 a, b, e; R256). -/

theorem toNat_ofNat_length {c : List Byte} (h : c.length ≤ 255) : (BitVec.ofNat 8 c.length).toNat = c.length := by
  rw [BitVec.toNat_ofNat]
  omega

/-- R193 a with anything behind the frame. -/
theorem attempt_frame {c : List Byte} (hmin : 1 ≤ c.length) (hmax : c.length ≤ 200) (after : List LinkItem) :
    attempt ((frame c).map .byte ++ after) = some ⟨c, .success, c.length + 4⟩ := by
  have hend := attemptChk_endMarker (BitVec.ofNat 8 c.length) c (crc8 (BitVec.ofNat 8 c.length :: c)) after
  rw [if_pos rfl] at hend
  simpa [frame] using attempt_of_payload hmin hmax (toNat_ofNat_length (by omega)) hend

/-- Settles O54: the noise, then the frame. -/
theorem frameIsRecovered : Obligations.FrameIsRecovered := by
  intro c noise after hmin hmax hnoise
  have hframe := attempt_noise hnoise (attempt_frame hmin hmax after)
  rwa [← List.append_assoc, ← List.map_append, ← Nat.add_assoc] at hframe

/-- R193 b for any wrong checksum byte. -/
theorem attempt_of_wrong_checksum {c : List Byte} {n x : Byte} (hmin : 1 ≤ c.length) (hmax : c.length ≤ 200)
    (hn : n.toNat = c.length) (hx : x ≠ crc8 (n :: c)) (after : List LinkItem) :
    attempt ((0xAA#8 :: n :: c ++ [x, 0x55#8]).map .byte ++ after) = some ⟨c, .crcMismatch, c.length + 4⟩ := by
  have hend := attemptChk_endMarker n c x after
  rw [if_neg hx.symm] at hend
  rw [List.map_append, List.append_assoc]
  exact attempt_of_payload hmin hmax hn hend

/-- Settles O55: the checksum with one bit flipped is a wrong one. -/
theorem wrongChecksumIsMismatch : Obligations.WrongChecksumIsMismatch :=
  fun _ _ after hmin hmax hn => ⟨fun _ hx => attempt_of_wrong_checksum hmin hmax hn hx after,
    fun _ hk => attempt_of_wrong_checksum hmin hmax hn (xor_shiftLeft_one_ne _ hk) after⟩

/-- Settles O57: in the end marker's place neither another byte nor a TimeoutSignal lets the checksum be compared. -/
theorem endMarkerIsTestedBeforeTheChecksum : Obligations.EndMarkerIsTestedBeforeTheChecksum := by
  intro c n x after hmin hmax hn
  refine ⟨fun y hy => ?_, ?_⟩ <;> rw [List.map_append, List.append_assoc]
  · exact attempt_of_payload hmin hmax hn (attemptChk_other n c x hy after)
  · exact attempt_of_payload hmin hmax hn (attemptChk_timeout n c x after)

/-! Lengths (R193 c, f). -/

theorem attempt_of_illegal_length {n : Byte} (h : n.toNat = 0 ∨ 200 < n.toNat) (after : List LinkItem) :
    attempt (.byte 0xAA#8 :: .byte n :: after) = some ⟨[], .desync, 2⟩ := by
  have hillegal : ¬ lengthLegal n = true := by
    rw [lengthLegal_iff]
    omega
  rw [attempt, if_pos rfl, attemptLen, if_neg hillegal]
  rfl

/-- After a legal length payload is still to come. -/
theorem attempt_of_legal_length {n : Byte} (hmin : 1 ≤ n.toNat) (hmax : n.toNat ≤ 200) :
    attempt [.byte 0xAA#8, .byte n] = none := by
  obtain ⟨k, hk⟩ := Nat.exists_eq_add_of_le' hmin
  rw [attempt, if_pos rfl, attemptLen, if_pos ((lengthLegal_iff n).mpr ⟨hmin, hmax⟩), hk]
  rfl

/-- Settles O56: the encoder's length byte is the number of values. -/
theorem lengthBoundaries : Obligations.LengthBoundaries := by
  refine ⟨fun n after h => attempt_of_illegal_length h after, fun p bytes after hframe h => ?_,
    fun n hmin hmax => attempt_of_legal_length hmin hmax⟩
  obtain ⟨hlen, rfl⟩ : p.length ≤ 255 ∧ frame (p.map clamp) = bytes := by
    simpa [encodeFrame] using hframe
  refine attempt_of_illegal_length ?_ _
  rwa [toNat_ofNat_length (by rwa [List.length_map]), List.length_map]

/-! Bounds (R191, R279). -/

/-- The attempt ends, with at most `k` of the items consumed. -/
def EndsWithin (k : Nat) (x : Option AttemptResult) : Prop :=
  ∃ r, x = some r ∧ r.consumed ≤ k

theorem EndsWithin.more {k : Nat} {x : Option AttemptResult} (h : EndsWithin k x) :
    EndsWithin (k + 1) (x.map .more) := by
  obtain ⟨r, rfl, hr⟩ := h
  exact ⟨r.more, rfl, Nat.succ_le_succ hr⟩

/-- The attempt ends with the item just read. -/
theorem endsWithin_succ (k : Nat) (p : List Byte) (st : DecStatus) : EndsWithin (k + 1) (some ⟨p, st, 1⟩) :=
  ⟨_, rfl, Nat.succ_le_succ k.zero_le⟩

theorem attemptEnd_endsWithin (l : Byte) (p : List Byte) (c : Byte) {items : List LinkItem} (h : 1 ≤ items.length) :
    EndsWithin 1 (attemptEnd l p c items) := by
  match items with
  | .timeout :: _ => exact endsWithin_succ 0 _ _
  | .byte b :: _ =>
    rw [attemptEnd_byte]
    exact endsWithin_succ 0 _ _

theorem attemptChk_endsWithin (l : Byte) (p : List Byte) {items : List LinkItem} (h : 2 ≤ items.length) :
    EndsWithin 2 (attemptChk l p items) := by
  match items with
  | .timeout :: _ => exact endsWithin_succ 1 _ _
  | .byte c :: r => exact (attemptEnd_endsWithin l p c (Nat.le_of_succ_le_succ h)).more

theorem attemptData_endsWithin (l : Byte) {n : Nat} (p : List Byte) {items : List LinkItem} (h : n + 2 ≤ items.length) :
    EndsWithin (n + 2) (attemptData l n p items) := by
  induction n generalizing p items with
  | zero =>
    rw [attemptData]
    exact attemptChk_endsWithin l p h
  | succ n ih =>
    match items with
    | .timeout :: _ => exact endsWithin_succ (n + 2) _ _
    | .byte b :: r =>
      rw [Nat.add_right_comm]
      exact (ih (p ++ [b]) (by rw [List.length_cons] at h; omega)).more

/-- R191's bound: the length, at most 200 payload bytes, the checksum and the end marker. -/
theorem attemptLen_endsWithin {items : List LinkItem} (h : 203 ≤ items.length) : EndsWithin 203 (attemptLen items) := by
  match items with
  | .timeout :: _ => exact endsWithin_succ 202 _ _
  | .byte b :: r =>
    rw [attemptLen]
    split
    next hlegal =>
      have hmax := ((lengthLegal_iff b).mp hlegal).2
      rw [List.length_cons] at h
      obtain ⟨x, hx, hle⟩ := (attemptData_endsWithin b [] (show b.toNat + 2 ≤ r.length by omega)).more
      exact ⟨x, hx, by omega⟩
    next => exact endsWithin_succ 202 _ _

/-- R279: noise alone never ends the search. -/
theorem attempt_noise_eq_none {noise : List Byte} (h : 0xAA#8 ∉ noise) : attempt (noise.map .byte) = none := by
  induction noise with
  | nil => rfl
  | cons b noise ih =>
    rw [List.mem_cons, not_or] at h
    rw [List.map_cons, attempt, if_neg (Ne.symm h.1), ih h.2, Option.map_none]

/-- Settles O58: the bound, state by state, and the search. -/
theorem attemptIsBoundedPastTheStartMarker : Obligations.AttemptIsBoundedPastTheStartMarker :=
  ⟨fun _ h => attemptLen_endsWithin h, fun _ h => attempt_noise_eq_none h⟩

end Sys2Proof.Machine
end

section
/-! PROOFS. `DECODE` on the machine (R106): moves of LINK_RX and TICKER in any order are the reads of `attempt`, a tick that
finds the timer run out being a read answered with a TimeoutSignal (R187); then the read-out (R189, R190). -/

namespace Sys2Proof.Machine

/-! One move of LINK_RX or TICKER. -/

theorem isDriveMove_iff (m : Move) : isDriveMove m = true ↔ m = .linkRx ∨ m = .ticker := by
  cases m <;> simp [isDriveMove]

/-- What a read answered with the item is at the Link. -/
def readEvent : LinkItem → LinkEvent
  | .byte b => .delivered b
  | .timeout => .timedOut

theorem State.linkEvent_linkRx {s : State} {it : LinkItem} {r : List LinkItem} {ms : List Move}
    (hm : s.moves = .linkRx :: ms) (hrx : s.rxStream = it :: r) (hbusy : s.dec.busy = true) :
    s.linkEvent = some (readEvent it) := by
  cases it with
  | byte b =>
    obtain ⟨i, hi⟩ := Dec.exists_decodeRx_of_busy hbusy b
    simp only [State.linkEvent, hm, State.presented, hrx, decode, hi, readEvent]
  | timeout =>
    obtain ⟨i, hi⟩ := Dec.exists_decodeTimeout_of_busy hbusy
    simp only [State.linkEvent, hm, State.presented, hrx, decode, hi, readEvent]

theorem State.linkEvent_ticker {s : State} {ms : List Move} (hm : s.moves = .ticker :: ms) :
    s.linkEvent = if s.dec.busy = true ∧ s.dec.tmr ≤ 1#32 then some .timedOut else none := by
  simp only [State.linkEvent, hm, State.presented, decode]

/-- Between attempts neither move does anything. -/
theorem step_drive_of_not_busy {s : State} {m : Move} {ms : List Move} (hm : s.moves = m :: ms)
    (hdrive : isDriveMove m = true) (hbusy : s.dec.busy = false) :
    step s = .next { s with moves := ms } ∧ s.linkEvent = none := by
  obtain rfl | rfl := (isDriveMove_iff m).mp hdrive
  · have hnothing := State.selectsNothing_linkRx_of_not_busy hbusy
    rw [← State.spendMove_of_moves hm]
    exact ⟨step_of_selectsNothing hm hnothing, State.linkEvent_of_selectsNothing hm hnothing⟩
  · have hguard : ¬ (s.dec.busy = true ∧ s.dec.tmr ≤ 1#32) := fun h => by cases hbusy.symm.trans h.1
    refine ⟨(step_ticker hm).trans (exec_decTick_of_not_busy (s := s.withMoves ms) hbusy), ?_⟩
    rw [State.linkEvent_ticker hm, if_neg hguard]

/-- Counting ticks do not touch what the decoder has still to compute. -/
theorem Dec.Awaits.countDown {d : Dec} {f : List LinkItem → Option AttemptResult} (h : d.Awaits f) (n : Nat) :
    (d.countDown n).Awaits f := by
  cases h with
  | startMarker hst hout hnone => exact .startMarker hst hout hnone
  | length hst hout hnone => exact .length hst hout hnone
  | payload hst hout hsome hrem => exact .payload (d := d.countDown n) hst hout hsome hrem
  | checksum hst hout hcrc => exact .checksum (d := d.countDown n) hst hout hcrc
  | endMarker hst hout hcrc => exact .endMarker (d := d.countDown n) hst hout hcrc
  | nothing hst => exact .nothing (d := d.countDown n) hst

/-- What a move of LINK_RX or TICKER does in an attempt: nothing is read; or the item on offer is; or the tick that finds the
timer run out ends the read, and the attempt, with a TimeoutSignal. -/
inductive DriveStep (s : State) (f : List LinkItem → Option AttemptResult) (d : Dec) (rx : List LinkItem) : Prop where
  | noRead (hawaits : d.Awaits f) (hrx : s.rxStream = rx) (hevent : s.linkEvent = none)
  | read {it : LinkItem} {f' : List LinkItem → Option AttemptResult} (hawaits : d.Awaits f')
      (happly : ∀ r, f (it :: r) = (f' r).map .more) (hrx : s.rxStream = it :: rx)
      (hevent : s.linkEvent = some (readEvent it))
  | timedOut {f' : List LinkItem → Option AttemptResult} (hawaits : d.Awaits f')
      (happly : ∀ r, f (.timeout :: r) = (f' r).map .more) (hrx : s.rxStream = rx)
      (hevent : s.linkEvent = some .timedOut) (hended : d.busy = false)

section
variable {f : List LinkItem → Option AttemptResult} {s : State}

theorem step_drive_of_busy {m : Move} {ms : List Move} (hm : s.moves = m :: ms) (hdrive : isDriveMove m = true)
    (h : s.dec.Awaits f) (hbusy : s.dec.busy = true) :
    ∃ d rx, step s = .next { s with dec := d, rxStream := rx, moves := ms } ∧ DriveStep s f d rx := by
  obtain rfl | rfl := (isDriveMove_iff m).mp hdrive
  · cases hrx : s.rxStream with
    | nil =>
      have hnothing := State.selectsNothing_linkRx_of_nothing_on_offer hrx
      have hstep := step_of_selectsNothing hm hnothing
      rw [State.spendMove_of_moves hm] at hstep
      exact ⟨s.dec, s.rxStream, hstep, .noRead h rfl (State.linkEvent_of_selectsNothing hm hnothing)⟩
    | cons it r =>
      obtain ⟨f', hawaits, happly⟩ := h.takeItem_of_busy hbusy it
      exact ⟨_, r, step_linkRx hm hrx hbusy, .read hawaits happly hrx (State.linkEvent_linkRx hm hrx hbusy)⟩
  · by_cases hlow : s.dec.tmr.toNat ≤ 1
    · have hevent : s.linkEvent = some .timedOut := by
        rw [State.linkEvent_ticker hm, if_pos ⟨hbusy, (ticks_le_one_iff _).mpr hlow⟩]
      exact ⟨_, s.rxStream, (step_ticker hm).trans (exec_decTick_of_le_one (s := s.withMoves ms) hbusy hlow),
        .timedOut (Dec.awaits_raise _ s.dec) (h.apply_timeout_of_busy hbusy) rfl hevent rfl⟩
    · have hevent : s.linkEvent = none := by
        rw [State.linkEvent_ticker hm, if_neg fun hguard => hlow ((ticks_le_one_iff _).mp hguard.2)]
      exact ⟨_, s.rxStream, (step_ticker hm).trans (exec_decTick_of_two_le (s := s.withMoves ms) hbusy
        (Nat.lt_of_not_le hlow)), .noRead (h.countDown 1) rfl hevent⟩

/-- The bytes counted stay held: an attempt has room for the payload byte it awaits. -/
theorem Dec.Awaits.held_of_step {t : State} (h : s.dec.Awaits f) (hstep : step s = .next t) (hheld : s.dec.Held) :
    t.dec.Held := by
  rcases step_dec_cases hstep with hsame | ⟨_, hchange⟩
  · rwa [hsame]
  · refine hchange.held hheld fun hst => ?_
    cases h with
    | payload _ _ hsome hrem => exact Dec.rxCnt_lt_of_collecting hsome (hrem ▸ Nat.succ_pos _)
    | startMarker hst' | length hst' | checksum hst' | endMarker hst' | nothing hst' => cases hst.symm.trans hst'

/-! Runs of such moves. -/

/-- The reads were answered with the items on offer, `left` of which are left, but for a TimeoutSignal of the timer's at the
end. -/
def Answered (offer reads left : List LinkItem) : Prop :=
  offer = reads ++ left ∨ ∃ r, reads = r ++ [.timeout] ∧ offer = r ++ left

theorem Answered.cons {offer reads left : List LinkItem} (h : Answered offer reads left) (it : LinkItem) :
    Answered (it :: offer) (it :: reads) left := by
  obtain rfl | ⟨r, rfl, rfl⟩ := h
  · exact .inl rfl
  · exact .inr ⟨it :: r, rfl, rfl⟩

theorem run_drive_of_not_busy {p rest : List Move} (hm : s.moves = p ++ rest) (hdrive : ∀ m ∈ p, isDriveMove m = true)
    (hbusy : s.dec.busy = false) :
    run p.length s = .next { s with moves := rest } ∧ linkEvents p.length s = [] := by
  induction p generalizing s with
  | nil => subst hm; exact ⟨rfl, rfl⟩
  | cons m p ih =>
    obtain ⟨hfirst, hothers⟩ := List.forall_mem_cons.mp hdrive
    obtain ⟨hstep, hevent⟩ := step_drive_of_not_busy (ms := p ++ rest) hm hfirst hbusy
    obtain ⟨hrun, hevents⟩ := ih (s := { s with moves := p ++ rest }) rfl hothers hbusy
    refine ⟨(run_succ hstep).trans hrun, ?_⟩
    rw [List.length_cons, linkEvents_succ hstep, hevent, hevents]
    rfl

/-- Driven in any order, the decoder computes what it has to compute of what its reads were answered with. -/
theorem run_drive {p rest : List Move} (hm : s.moves = p ++ rest) (hdrive : ∀ m ∈ p, isDriveMove m = true)
    (h : s.dec.Awaits f) (hheld : s.dec.Held) :
    ∃ d rx reads, run p.length s = .next { s with dec := d, rxStream := rx, moves := rest } ∧
      linkEvents p.length s = reads.map readEvent ∧ d.Held ∧ Answered s.rxStream reads rx ∧
      (d.state = .done → f reads = some ⟨d.payload, d.status, reads.length⟩) := by
  induction p generalizing s f with
  | nil =>
    subst hm
    exact ⟨s.dec, s.rxStream, [], rfl, rfl, hheld, .inl rfl,
      fun hdone => (h.done_of_not_busy (s.dec.busy_eq_false_iff.mpr (.inr hdone)) []).2⟩
  | cons m p ih =>
    cases hbusy : s.dec.busy with
    | false =>
      obtain ⟨hrun, hevents⟩ := run_drive_of_not_busy hm hdrive hbusy
      exact ⟨s.dec, s.rxStream, [], hrun, hevents, hheld, .inl rfl, fun _ => (h.done_of_not_busy hbusy []).2⟩
    | true =>
      obtain ⟨hfirst, hothers⟩ := List.forall_mem_cons.mp hdrive
      obtain ⟨d', rx', hstep, hread⟩ := step_drive_of_busy (ms := p ++ rest) hm hfirst h hbusy
      have hheld' : d'.Held := h.held_of_step hstep hheld
      rw [List.length_cons, linkEvents_succ hstep, run_succ hstep]
      cases hread with
      | noRead hawaits hrx hevent =>
        obtain ⟨d, rx, reads, hrun, hevents, hend⟩ :=
          ih (s := { s with dec := d', rxStream := rx', moves := p ++ rest }) rfl hothers hawaits hheld'
        rw [hevent, hevents, hrx]
        exact ⟨d, rx, reads, hrun, rfl, hend⟩
      | @read it f' hawaits happly hrx hevent =>
        obtain ⟨d, rx, reads, hrun, hevents, hheld'', hanswered, hend⟩ :=
          ih (s := { s with dec := d', rxStream := rx', moves := p ++ rest }) rfl hothers hawaits hheld'
        rw [hevent, hevents, hrx]
        refine ⟨d, rx, it :: reads, hrun, rfl, hheld'', hanswered.cons it, fun hdone => ?_⟩
        rw [happly, hend hdone]
        rfl
      | timedOut hawaits happly hrx hevent hended =>
        obtain ⟨hrun, hevents⟩ :=
          run_drive_of_not_busy (s := { s with dec := d', rxStream := rx', moves := p ++ rest }) rfl hothers hended
        rw [hevent, hevents]
        refine ⟨d', rx', [.timeout], hrun, rfl, hheld', .inr ⟨[], rfl, hrx⟩, fun _ => ?_⟩
        rw [happly, (hawaits.done_of_not_busy hended []).2]
        rfl

end

/-! The read-out. -/

theorem Memory.getElem?_bytes {m : Memory} {n i : Nat} (h : Memory.written m n = true) (hi : i < n) :
    (Memory.bytes m n)[i]? = Memory.read? m i := by
  induction n with
  | zero => exact absurd hi (Nat.not_lt_zero i)
  | succ n ih =>
    have hn := Memory.written_of_le h (Nat.le_succ n)
    rw [Memory.bytes_succ]
    obtain hlt | rfl : i < n ∨ i = n := by omega
    · rw [List.getElem?_append_left (by rwa [Memory.bytes_length hn]), ih hn hlt]
    · obtain ⟨b, hb⟩ := Memory.read?_of_written h hi
      rw [List.getElem?_append_right (Nat.le_of_eq (Memory.bytes_length hn)), Memory.bytes_length hn, Nat.sub_self, hb]
      rfl

theorem Dec.payload_length {d : Dec} (h : d.Held) : d.payload.length = d.rxCnt.toNat := Memory.bytes_length h.1

/-- What the host reads of the payload byte `i`. -/
def Dec.payloadSample (d : Dec) (i : Nat) : DecSample := .cell (BitVec.ofNat 8 i) (d.payload.getD i 0x00#8)

/-- `DEC.RDBUF` below `rx_cnt`: the host reads the payload byte, which its cell holds (R190). -/
theorem step_decRdbuf {s : State} {i : Nat} {ms : List Move}
    (hm : s.moves = .host (.decRdbuf (BitVec.ofNat 8 i)) :: ms) (hst : s.dec.state = .done) (hheld : s.dec.Held)
    (hi : i < s.dec.rxCnt.toNat) :
    step s = .next { s with moves := ms, decSamples := s.decSamples ++ [s.dec.payloadSample i] } := by
  have hdepth : i < 200 := Nat.lt_of_lt_of_le hi hheld.2
  have hidx : (BitVec.ofNat 8 i).toNat = i := Nat.mod_eq_of_lt (Nat.lt_trans hdepth (by decide))
  obtain ⟨b, hb⟩ := Memory.read?_of_written hheld.1 hi
  have hbyte : s.dec.payload.getD i 0x00#8 = b := by
    rw [List.getD_eq_getElem?_getD, Dec.payload, Memory.getElem?_bytes hheld.1 hi, hb, Option.getD_some]
  rw [step_host hm, State.spendMove_of_moves hm, Dec.payloadSample, hbyte]
  exact exec_decRdbuf_of_held (s := { s with moves := ms }) hst (by rw [hidx]; exact ⟨hi, hdepth⟩) (by rwa [hidx])

theorem run_decRdbufs {l : List Nat} {rest : List Move} {s : State}
    (hm : s.moves = l.map (fun i => .host (.decRdbuf (BitVec.ofNat 8 i))) ++ rest) (hst : s.dec.state = .done)
    (hheld : s.dec.Held) (hl : ∀ i ∈ l, i < s.dec.rxCnt.toNat) :
    run l.length s = .next { s with moves := rest, decSamples := s.decSamples ++ l.map s.dec.payloadSample } := by
  induction l generalizing s with
  | nil =>
    subst hm
    rw [List.map_nil, List.append_nil]
    rfl
  | cons i l ih =>
    obtain ⟨hi, hl⟩ := List.forall_mem_cons.mp hl
    have hrun := ih (s := { s with moves := _, decSamples := s.decSamples ++ [s.dec.payloadSample i] })
      rfl hst hheld hl
    rw [List.append_assoc] at hrun
    exact (run_succ (step_decRdbuf hm hst hheld hi)).trans hrun

/-- In order from the first to the last, the host reads the payload's bytes with their indices. -/
theorem Dec.map_payloadSample_range {d : Dec} (h : d.Held) :
    (List.range d.rxCnt.toNat).map d.payloadSample = d.payload.mapIdx fun i b => .cell (BitVec.ofNat 8 i) b := by
  have hlen := Dec.payload_length h
  refine List.ext_getElem (by simp [hlen]) fun i hi hi' => ?_
  rw [List.length_mapIdx] at hi'
  simp [Dec.payloadSample, hi']

/-- `DEC.RESULT`, then `DEC.RDBUF` of every payload byte. -/
theorem run_readOut {rest : List Move} {s : State} (hm : s.moves = readOutMoves s.dec.rxCnt.toNat ++ rest)
    (hst : s.dec.state = .done) (hheld : s.dec.Held) :
    run (readOutMoves s.dec.rxCnt.toNat).length s = .next { s with
      moves := rest
      decSamples := s.decSamples ++
        s.dec.resultSample :: s.dec.payload.mapIdx fun i b => .cell (BitVec.ofNat 8 i) b } := by
  have hresult : step s = .next (s.spendMove.sampleDec s.dec.resultSample) :=
    (step_host hm).trans (exec_decResult_of_not_busy (s := s.spendMove) (s.dec.busy_eq_false_iff.mpr (.inr hst)))
  have hcells := run_decRdbufs (s := s.spendMove.sampleDec s.dec.resultSample) (l := List.range s.dec.rxCnt.toNat)
    (congrArg List.tail hm) hst hheld fun i hi => List.mem_range.mp hi
  have hsteps : (readOutMoves s.dec.rxCnt.toNat).length = (List.range s.dec.rxCnt.toNat).length + 1 := by
    simp [readOutMoves]
  rw [hsteps, run_succ hresult, hcells, State.sampleDec_dec, State.spendMove_dec, Dec.map_payloadSample_range hheld,
    State.sampleDec_decSamples, List.append_assoc]
  rfl

/-! The statement. -/

theorem Dec.held_startAttempt (d : Dec) : d.startAttempt.Held := Dec.held_of_rxCnt_eq_zero rfl

/-- What the expansion is: `DEC.START`, moves that drive the attempt to its end, and the read-out there. -/
theorem decodeExpansion_spec {ds ms : List Move} {s : State} (hbusy : s.dec.busy = false)
    (h : decodeExpansion ds s = some ms) :
    ∃ (p : List Move) (u : State), ms = .host .decStart :: p ++ readOutMoves u.dec.rxCnt.toNat ∧
      (∀ m ∈ p, isDriveMove m = true) ∧ u.decDone = true ∧
      ∀ rest, run p.length { s with dec := s.dec.startAttempt, moves := p ++ rest } = .next (u.withMoves rest) := by
  obtain ⟨t, ht, h⟩ := Option.bind_eq_some_iff.mp h
  obtain ⟨⟨p, u⟩, hdrive, rfl⟩ := Option.map_eq_some_iff.mp h
  have hstart := step_decStart (s := s.withMoves [.host .decStart]) rfl hbusy
  rw [State.makeMove, hstart] at ht
  cases ht
  obtain ⟨-, hmoves, hdone, -⟩ := driveUntilDone_spec hdrive []
  refine ⟨p, u, rfl, hmoves, hdone, fun rest => ?_⟩
  obtain ⟨-, -, -, hrun⟩ := driveUntilDone_spec hdrive rest
  exact hrun

/-- Settles O53: `DEC.START`, the drive to the end of the attempt, the read-out. -/
theorem decodeReadsTheOutcomeOfTheAttempt : Obligations.DecodeReadsTheOutcomeOfTheAttempt := by
  intro s ds ms rest hbusy hms hm
  obtain ⟨p, u, rfl, hdrive, hdone, hrunTo⟩ := decodeExpansion_spec hbusy hms
  rw [List.append_assoc] at hm
  have hstart := step_decStart hm hbusy
  obtain ⟨d, rx, reads, hrun, -, hheld, hanswered, hend⟩ :=
    run_drive (s := { s with dec := s.dec.startAttempt, moves := p ++ (readOutMoves u.dec.rxCnt.toNat ++ rest) })
      rfl hdrive s.dec.awaits_startAttempt s.dec.held_startAttempt
  obtain rfl : u.dec = d := congrArg State.dec (Host.Outcome.next.inj ((hrunTo _).symm.trans hrun))
  have hst : u.dec.state = .done := of_decide_eq_true hdone
  have hread := run_readOut (rest := rest)
    (s := { s with dec := u.dec, rxStream := rx, moves := readOutMoves u.dec.rxCnt.toNat ++ rest }) rfl hst hheld
  have hall := (run_succ hstart).trans ((run_add hrun).trans hread)
  rw [List.length_append, List.length_cons, Nat.add_right_comm]
  exact ⟨_, reads, hall, hend hst, hanswered, rfl, Dec.payload_length hheld, hdone, rfl, rfl, rfl, rfl⟩

end Sys2Proof.Machine
end

section
/-! PROOFS. The round trip (R193 a, R226): what a finished attempt makes of more items, what reads over a lossless Link were
answered with, and the two runs put together. -/

namespace Sys2Proof.Machine

/-! A finished attempt does not look at the items behind it (R192). -/

section
variable {items : List LinkItem} {r : AttemptResult}

theorem attemptEnd_append {l c : Byte} {p : List Byte} (h : attemptEnd l p c items = some r) (x : List LinkItem) :
    attemptEnd l p c (items ++ x) = some r := by
  cases items with
  | nil => cases h
  | cons it items => cases it <;> exact h

theorem attemptChk_append {l : Byte} {p : List Byte} (h : attemptChk l p items = some r) (x : List LinkItem) :
    attemptChk l p (items ++ x) = some r := by
  match items with
  | .timeout :: _ => exact h
  | .byte c :: items =>
    obtain ⟨r', hr, rfl⟩ := Option.map_eq_some_iff.mp h
    exact congrArg (Option.map AttemptResult.more) (attemptEnd_append hr x)

theorem attemptData_append {l : Byte} {n : Nat} {p : List Byte} (h : attemptData l n p items = some r)
    (x : List LinkItem) : attemptData l n p (items ++ x) = some r := by
  induction n generalizing p items r with
  | zero =>
    rw [attemptData] at h ⊢
    exact attemptChk_append h x
  | succ n ih =>
    match items with
    | .timeout :: _ => exact h
    | .byte b :: items =>
      obtain ⟨r', hr, rfl⟩ := Option.map_eq_some_iff.mp h
      exact congrArg (Option.map AttemptResult.more) (ih hr)

theorem attemptLen_append (h : attemptLen items = some r) (x : List LinkItem) : attemptLen (items ++ x) = some r := by
  match items with
  | .timeout :: _ => exact h
  | .byte b :: items =>
    rw [List.cons_append]
    rw [attemptLen] at h ⊢
    split at h
    next hlegal =>
      obtain ⟨r', hr, rfl⟩ := Option.map_eq_some_iff.mp h
      rw [if_pos hlegal, attemptData_append hr x, Option.map_some]
    next hillegal => rwa [if_neg hillegal]

theorem attempt_append (h : attempt items = some r) (x : List LinkItem) : attempt (items ++ x) = some r := by
  induction items generalizing r with
  | nil => cases h
  | cons it items ih =>
    cases it with
    | timeout => exact h
    | byte b =>
      rw [List.cons_append]
      rw [attempt] at h ⊢
      split at h <;> obtain ⟨r', hr, rfl⟩ := Option.map_eq_some_iff.mp h
      next hmark => rw [if_pos hmark, attemptLen_append hr x, Option.map_some]
      next hnoise => rw [if_neg hnoise, ih hr, Option.map_some]

end

/-! The Link (R226). -/

/-- Bytes taken and none delivered are all undelivered. -/
theorem undelivered_map_taken (q bs : List Byte) : undelivered q (bs.map .taken) = some (q ++ bs) := by
  induction bs generalizing q with
  | nil => rw [List.map_nil, undelivered_nil, List.append_nil]
  | cons b bs ih => rw [List.map_cons, undelivered_taken, ih, List.append_assoc, List.singleton_append]

/-- Over a lossless Link the reads, and the bytes still undelivered after them, are the bytes there were to deliver, with
only TimeoutSignals after them. -/
theorem reads_of_undelivered {q q' : List Byte} {reads : List LinkItem}
    (h : undelivered q (reads.map readEvent) = some q') :
    ∃ k, reads ++ q'.map .byte = q.map .byte ++ List.replicate k .timeout := by
  induction reads generalizing q with
  | nil =>
    rw [List.map_nil, undelivered_nil] at h
    cases h
    exact ⟨0, (List.append_nil _).symm⟩
  | cons it reads ih =>
    cases it with
    | byte b =>
      obtain ⟨q, rfl, hrest⟩ := undelivered_delivered h
      obtain ⟨k, hk⟩ := ih hrest
      exact ⟨k, congrArg (LinkItem.byte b :: ·) hk⟩
    | timeout =>
      obtain ⟨rfl, hrest⟩ := undelivered_timedOut h
      obtain ⟨k, hk⟩ := ih hrest
      exact ⟨k + 1, congrArg (LinkItem.timeout :: ·) hk⟩

/-! Recovery (R193 a). -/

theorem clamp_toNat {v : Int} (h : 0 ≤ v ∧ v ≤ 255) : ((clamp v).toNat : Int) = v :=
  let ⟨_, _, hbyte⟩ := clampSaturates v
  hbyte h.1 h.2

/-- The clamped values are the values themselves where these are bytes. -/
theorem Dec.recovers_of_payload {vs : List PushValue} {d : Dec} (hst : d.state = .done) (hout : d.status = .success)
    (hpayload : d.payload = vs.map fun v => clamp (sext v)) : d.recovers vs := by
  refine ⟨hst, hout, hpayload, fun hbytes => ?_⟩
  rw [hpayload, List.map_map]
  exact List.map_congr_left fun v hv => clamp_toNat (hbytes v hv)

section
variable {vs : List PushValue} {u w : State}

/-- A decoder that finds the frame on offer, with anything behind it, recovers the values in as many reads as the frame has
bytes. -/
theorem run_of_frame_on_offer {after : List LinkItem} (hmin : 1 ≤ vs.length) (hmax : vs.length ≤ 200)
    (hbusy : u.dec.busy = false) (hm : u.moves = decodeMoves (vs.length + 4))
    (hrx : u.rxStream = (frame (vs.map fun v => clamp (sext v))).map .byte ++ after) :
    ∃ w, run (vs.length + 5) u = .next w ∧ w.dec.recovers vs ∧ w.rxStream = u.rxStream.drop (vs.length + 4) := by
  have hlen := List.length_map (as := vs) fun v => clamp (sext v)
  have hattempt := attempt_frame (hlen.symm ▸ hmin) (hlen.symm ▸ hmax) after
  rw [← hrx, hlen] at hattempt
  obtain ⟨w, hrun, hst, hout, hpayload, hrest, -⟩ := (decoderComputesTheAttempt u u.rxStream [] hbusy rfl).1 _ hattempt
    (hm.trans (List.append_nil _).symm)
  exact ⟨w, hrun, Dec.recovers_of_payload hst hout hpayload, hrest⟩

/-- An attempt that has ended, whose reads are the start of what begins with the frame, has recovered the values. -/
theorem Dec.recovers_of_reads {d : Dec} {reads left after : List LinkItem} (hmin : 1 ≤ vs.length)
    (hmax : vs.length ≤ 200) (hst : d.state = .done)
    (hattempt : attempt reads = some ⟨d.payload, d.status, reads.length⟩)
    (hreads : reads ++ left = (frame (vs.map fun v => clamp (sext v))).map .byte ++ after) : d.recovers vs := by
  have hlen := List.length_map (as := vs) fun v => clamp (sext v)
  have hframe := attempt_frame (hlen.symm ▸ hmin) (hlen.symm ▸ hmax) after
  rw [← hreads, attempt_append hattempt left] at hframe
  injection hframe with hframe
  injection hframe with hpayload hout
  exact Dec.recovers_of_payload hst hout hpayload

/-- A run of `DEC.START` and drives, over a Link whose undelivered bytes are the frame, ends, if it ends, with the values
recovered. -/
theorem recovers_of_run_drive {ds : List Move} {q : List Byte} (hmin : 1 ≤ vs.length) (hmax : vs.length ≤ 200)
    (hbusy : u.dec.busy = false) (hm : u.moves = .host .decStart :: ds) (hdrive : ∀ m ∈ ds, isDriveMove m = true)
    (hrun : run (ds.length + 1) u = .next w) (hdone : w.decDone = true)
    (hlink : undelivered (frame (vs.map fun v => clamp (sext v))) (linkEvents (ds.length + 1) u) = some q) :
    w.dec.recovers vs := by
  have hstart := step_decStart hm hbusy
  obtain ⟨d, rx, reads, hrun', hevents, -, -, hend⟩ :=
    run_drive (s := { u with dec := u.dec.startAttempt, moves := ds }) (List.append_nil ds).symm hdrive
      u.dec.awaits_startAttempt u.dec.held_startAttempt
  cases ((run_succ hstart).trans hrun').symm.trans hrun
  have hst : d.state = .done := of_decide_eq_true hdone
  rw [linkEvents_succ hstart, State.linkEvent_host hm, hevents] at hlink
  obtain ⟨k, hreads⟩ := reads_of_undelivered hlink
  exact Dec.recovers_of_reads hmin hmax hst (hend hst) hreads

end

/-- Settles O59: the Link takes the frame; over a lossless one the decoder's reads begin with it. -/
theorem roundTripOverALosslessLink : Obligations.RoundTripOverALosslessLink := by
  intro s vs hmin hmax hidle hm
  obtain ⟨t, hrun, hevents, -, hst, -⟩ :=
    run_of_encodeMoves (by omega) hidle (hm.trans (List.append_nil _).symm)
  rw [hevents]
  refine ⟨⟨t, hrun, hst⟩, fun u hbusy hmoves ⟨q, k, hq, hrx⟩ => ?_,
    fun u w ds hbusy hmoves hdrive hrun' hdone ⟨q, k, hq, _⟩ => ?_⟩
  · rw [undelivered_map_taken] at hq
    cases hq
    exact run_of_frame_on_offer hmin hmax hbusy hmoves hrx
  · rw [undelivered_append, undelivered_map_taken] at hq
    exact recovers_of_run_drive hmin hmax hbusy hmoves hdrive hrun' hdone hq

end Sys2Proof.Machine
end
